-- ==== Sys2Proof/Word.lean ====
section
/-! DEFINITION. The bit-vector types of the block: a host bus word, a byte, a UTF-16 code unit
(spec 00 R13, R15; 20 R63). -/

namespace Sys2Proof

/-- A value on the 32-bit host data bus (20 R63). -/
abbrev Word := BitVec 32

/-- One byte: a byte lane of the bus, a Latin-1 character, a UTF-8 code group. -/
abbrev Byte := BitVec 8

/-- One UTF-16 code unit, the block's "character" (00 R15). -/
abbrev CodeUnit := BitVec 16

end Sys2Proof
end

