-- ==== Sys2Proof/Config.lean ====
section
/-! DEFINITION. What an implementation fixes at synthesis (spec 10 R20 d): the payload width P, the code tables,
the unresolved punctuation slots and the platform's base address. They are plain data, so that the model holds for
every legal choice; the reference values stand in Machine/Tables.lean. -/

namespace Sys2Proof

/-- The eleven alphabets (00 R3, 40 R100), in id order. -/
inductive Alphabet where
  | utf8 | numerical | date | upper | lower | email | emailsym | alphanum | alphasym | european | latin1
  deriving DecidableEq, Repr

/-- A code table drawn as the grids of 40 R107 to R115: entry `k` is the Latin-1 character whose code is `k`,
or `none` for a spare code. -/
abbrev Grid := List (Option Byte)

/-- ALPHABET_CODES (00 R11): one grid for each restricted alphabet. -/
structure CodeTables where
  numerical : Grid
  date : Grid
  upper : Grid
  lower : Grid
  email : Grid
  emailsym : Grid
  alphanum : Grid
  alphasym : Grid
  european : Grid
  deriving DecidableEq, Repr

/-- The synthesis and platform parameters (10 R20 d, 20 R75). DESIGN CHOICE (log 1): they are carried by the state
and no step changes them. -/
structure Config where
  /-- `P`, the width of the payload block in bits (00 R8). -/
  p : Nat
  /-- `VWAC_BASE`, where the platform places the register space (20 R75). -/
  base : Nat
  /-- `ALPHABET_CODES` (00 R11). -/
  codes : CodeTables
  /-- `UNRES_DATE`: the unresolved punctuation indices of DATE (40 R116). -/
  unresDate : List Nat
  /-- `UNRES_EUROPEAN` (40 R116). -/
  unresEuropean : List Nat
  /-- `UNRES_ALPHASYM` (40 R116). -/
  unresAlphasym : List Nat
  deriving DecidableEq, Repr

end Sys2Proof
end

