-- ==== Sys2Proof/Machine/Tables.lean ====
section
/-! DEFINITION. The reference instantiation of the synthesis parameters: the nine code grids of spec 40 R107 to R115,
the unresolved slots of 40 R116 and the payload width of 00 R8. -/

namespace Sys2Proof.Machine

/-- The characters `lo`, `lo + 1`, … of `n` consecutive codes. -/
def charRun (lo n : Nat) : Grid := (List.range n).map fun k => some (BitVec.ofNat 8 (lo + k))

/-- The marks with the given code points, in code order. -/
def charMarks (l : List Nat) : Grid := l.map fun u => some (BitVec.ofNat 8 u)

/-- `n` spare codes. -/
def charSpare (n : Nat) : Grid := List.replicate n none

/-- '0'..'9'. -/
def charDigits : Grid := charRun 0x30 10

/-- 'A'..'Z'. -/
def charUppers : Grid := charRun 0x41 26

/-- 'a'..'z'. -/
def charLowers : Grid := charRun 0x61 26

/-- The 62 accented letters, in code point order (40 R103). -/
def charAccents : Grid := charRun 0xC0 23 ++ charRun 0xD8 31 ++ charRun 0xF8 8

/-- 40 R107: digits, then SP . - + , '. -/
def gridNumerical : Grid := charDigits ++ charMarks [0x20, 0x2E, 0x2D, 0x2B, 0x2C, 0x27]

/-- 40 R108: digits, then SP . - : + ,. -/
def gridDate : Grid := charDigits ++ charMarks [0x20, 0x2E, 0x2D, 0x3A, 0x2B, 0x2C]

/-- 40 R109: SP, A-Z, then _ . - : /. -/
def gridUpper : Grid := charMarks [0x20] ++ charUppers ++ charMarks [0x5F, 0x2E, 0x2D, 0x3A, 0x2F]

/-- 40 R110: SP, a-z, then _ . - : /. -/
def gridLower : Grid := charMarks [0x20] ++ charLowers ++ charMarks [0x5F, 0x2E, 0x2D, 0x3A, 0x2F]

/-- 40 R111: the comma, a-z, then _ . - + @ (90 C2). -/
def gridEmail : Grid := charMarks [0x2C] ++ charLowers ++ charMarks [0x5F, 0x2E, 0x2D, 0x2B, 0x40]

/-- 40 R112: SP, digits, a-z, the nine other marks, 18 spare codes. -/
def gridEmailsym : Grid :=
  charMarks [0x20] ++ charDigits ++ charLowers
    ++ charMarks [0x5F, 0x2E, 0x2D, 0x3A, 0x2F, 0x2B, 0x2C, 0x27, 0x40] ++ charSpare 18

/-- 40 R113: SP, digits, A-Z, a-z, _. -/
def gridAlphanum : Grid := charMarks [0x20] ++ charDigits ++ charUppers ++ charLowers ++ charMarks [0x5F]

/-- 40 R114: SP, A-Z, a-z, the nine other marks, 2 spare codes; no digits (90 C1). -/
def gridAlphasym : Grid :=
  charMarks [0x20] ++ charUppers ++ charLowers
    ++ charMarks [0x5F, 0x2E, 0x2D, 0x3A, 0x2F, 0x2B, 0x2C, 0x27, 0x40] ++ charSpare 2

/-- 40 R115: SP, digits, A-Z, a-z, the accented letters, _ . -. -/
def gridEuropean : Grid :=
  charMarks [0x20] ++ charDigits ++ charUppers ++ charLowers ++ charAccents ++ charMarks [0x5F, 0x2E, 0x2D]

/-- The reference code tables (40 R107 to R115). -/
def referenceCodes : CodeTables :=
  { numerical := gridNumerical, date := gridDate, upper := gridUpper, lower := gridLower, email := gridEmail,
    emailsym := gridEmailsym, alphanum := gridAlphanum, alphasym := gridAlphasym, european := gridEuropean }

/-- The reference parameters: P = 112 (00 R8), the reference tables and unresolved slots (00 R11), and
VWAC_BASE = 0 (DESIGN CHOICE, log 3: the spec leaves it open). -/
def referenceConfig : Config :=
  { p := 112, base := 0, codes := referenceCodes, unresDate := [2], unresEuropean := [1],
    unresAlphasym := [6, 7, 8, 9] }

end Sys2Proof.Machine
end

