-- ==== Sys2Proof/Machine/State.lean ====
section
/-! DEFINITION. The state of the block (spec 10), the events of the world outside it (spec 70 R280, R288), the reasons
a step can stop, and the state after reset (10 R46). Everything is plain data. -/

namespace Sys2Proof.Machine

/-- The kinds of character class (40 R101). -/
inductive Kind where
  | punct | upper | lower | digit | accent | other
  deriving DecidableEq, Repr

/-- A character class, the classifier's verdict on a code unit: its kind, and the punctuation index or the
character byte (40 R101, 10 R40). -/
structure CharClass where
  kind : Kind
  val : Byte
  deriving DecidableEq, Repr

/-- The engine state register, in the place of a program counter (10 R37). -/
inductive Fsm where
  | idle | encGate | encLatin1 | encUtf8 | encClassify | encTry | encPack
  | decCheck | decUnpack | decUtf8 | badCmd | commit | fault
  deriving DecidableEq, Repr

/-- The result codes that are written (60 R250). -/
inductive ResultCode where
  | success | nofit | foreign
  | errContract | errBadId | errBadUtf16 | errBadUtf8 | errBadCode | errBadLength | errBadCmd
  deriving DecidableEq, Repr

/-- The fields of STATUS (10 R22). -/
structure Status where
  busy : Bool
  done : Bool
  ok : Bool
  fault : Bool
  result : BitVec 4
  ovr : Bool
  deriving DecidableEq, Repr

/-- One host bus access, at a system address, of a size in bytes (20 R63, R64). -/
inductive Access where
  | read (addr size : Nat)
  | write (addr size : Nat) (v : Word)
  deriving DecidableEq, Repr

/-- What happens to the block from outside, one event per step (70 R280, R288). -/
inductive Event where
  /-- A host step (70 R288 a). -/
  | host (a : Access)
  /-- One poll of the host's WAIT loop (30 R91). -/
  | wait
  /-- The engine's turn at the reference grain: a whole command in one engine step (70 R287). -/
  | engine
  /-- The engine's turn at the FSM grain: one arrow of 41 R154 or 43 R214 (D28). -/
  | tick
  /-- The platform asserts reset (70 R280). -/
  | resetAssert
  /-- The platform releases reset (70 R280). -/
  | resetRelease
  deriving DecidableEq, Repr

/-- Why the machine stops with a fault. The engine's own fatal results are not here: they are next states with
`fsm = fault` (60 R254). -/
inductive Fault where
  /-- The host addressed a byte outside the 4 KiB register space at VWAC_BASE (20 R60). Raised by the host port;
  safe: no such access reaches the block (log 12). -/
  | outsideRegisterSpace (addr : Nat)
  deriving DecidableEq, Repr

/-- Why the machine has no step. -/
inductive Refusal where
  /-- An instruction without a meaning. Raised by no arm of `exec` in this model; safe. -/
  | notModelled (mnemonic : String)
  /-- A host access whose size is not 4 bytes: "The model refuses it" (20 R64). Raised by the host port; safe. -/
  | accessSize (size : Nat)
  /-- A host access to an offset that is not a multiple of 4 (20 R64). Raised by the host port; safe. -/
  | misaligned (offset : Nat)
  deriving DecidableEq, Repr

/-- The state of the block and of its bus. Each field names the rule that gives it. -/
structure State where
  /-- The synthesis parameters (10 R20 d); no step changes them (log 1). -/
  cfg : Config
  /-- STATUS (10 R22). -/
  status : Status
  /-- IN_LEN (10 R30). -/
  inLen : BitVec 16
  /-- HDR (10 R31). -/
  hdr : BitVec 12
  /-- OUT_LEN (10 R32). -/
  outLen : BitVec 7
  /-- PAYLOAD[0..15] (10 R33). -/
  payload : Vector Word 16
  /-- CHAR_IN[0..63] (10 R34). -/
  charIn : Vector CodeUnit 64
  /-- CHAR_OUT[0..63] (10 R35). -/
  charOut : Vector CodeUnit 64
  /-- The engine state register (10 R37). -/
  fsm : Fsm
  /-- The started command's OP (10 R42). -/
  op : BitVec 2
  /-- ACC, below 2^P (10 R38). -/
  acc : Nat
  /-- CAND: bit id-1 stands for alphabet id (10 R39). -/
  cand : BitVec 9
  /-- CLS[0..62] (10 R40). -/
  cls : Vector CharClass 63
  /-- BYTES[0..62] (10 R41). -/
  bytes : Vector Byte 63
  /-- nbytes (10 R41). -/
  nbytes : BitVec 8
  /-- i, the character index (10 R42); 63 stands for -1 in DEC_UNPACK (log 9). -/
  i : BitVec 6
  /-- tryid (10 R42). -/
  tryid : BitVec 4
  /-- The header COMMIT will store, the `hdr` of 41 R154 (log 8). -/
  hdrNext : BitVec 12
  /-- The length COMMIT will store, the `N` of 43 R214 (log 8). -/
  nNext : BitVec 7
  /-- The characters COMMIT will store, the `out` of 43 R214 (log 8). -/
  outNext : Vector CodeUnit 63
  /-- The platform's reset signal (70 R280). The model's own field. -/
  inReset : Bool
  /-- The events still to come. The model's own field (log 4). -/
  bus : List Event
  /-- The values host reads have returned, newest first. The model's own field (log 6). -/
  observed : List Word
  deriving DecidableEq, Repr

/-- The state after reset (10 R46) of a block with parameters `c`: the pending latches hold 0 (log 8), nothing is
pending on the bus, reset is released. -/
def State.resetWith (c : Config) : State :=
  { cfg := c
    status := { busy := false, done := false, ok := false, fault := false, result := 0, ovr := false }
    inLen := 0
    hdr := 0
    outLen := 0
    payload := Vector.replicate 16 0
    charIn := Vector.replicate 64 0
    charOut := Vector.replicate 64 0
    fsm := .idle
    op := 0
    acc := 0
    cand := 0
    cls := Vector.replicate 63 { kind := .punct, val := 0 }
    bytes := Vector.replicate 63 0
    nbytes := 0
    i := 0
    tryid := 0
    hdrNext := 0
    nNext := 0
    outNext := Vector.replicate 63 0
    inReset := false
    bus := []
    observed := [] }

/-- The machine right after reset, at the reference parameters. -/
def State.reset : State := State.resetWith referenceConfig

end Sys2Proof.Machine
end

