-- ==== Sys2Proof/Machine/Flags.lean ====
section
/-! DEFINITION. The STATUS word and every way its fields change (spec 10 R22 to R28, 60 R250 to R254). The block has
no condition codes (10 R44). -/

namespace Sys2Proof.Machine

/-- The 4-bit code of a result (60 R250). -/
def resultBits : ResultCode → BitVec 4
  | .success => 0x0
  | .nofit => 0x1
  | .foreign => 0x2
  | .errContract => 0x8
  | .errBadId => 0x9
  | .errBadUtf16 => 0xA
  | .errBadUtf8 => 0xB
  | .errBadCode => 0xC
  | .errBadLength => 0xD
  | .errBadCmd => 0xE

/-- STATUS as the host reads it: BUSY 0, DONE 1, OK 2, FAULT 3, RESULT 7:4, OVR 8, the rest 0 (10 R22). -/
def statusWord (st : Status) : Word :=
  BitVec.ofNat 32
    (st.busy.toNat + 2 * st.done.toNat + 4 * st.ok.toNat + 8 * st.fault.toNat + 16 * st.result.toNat
      + 256 * st.ovr.toNat)

/-- A command starts: BUSY 1, DONE, OK, RESULT and OVR 0 (10 R21). -/
def statusStarted (st : Status) : Status :=
  { st with busy := true, done := false, ok := false, result := 0, ovr := false }

/-- `finish(r)`: FAULT and OVR are not written (60 R252). -/
def statusFinished (r : ResultCode) (st : Status) : Status :=
  { st with busy := false, done := true, ok := decide (r = .success), result := resultBits r }

/-- `raise Fatal(c)`: OVR is not written (60 R254). -/
def statusFatal (c : ResultCode) (st : Status) : Status :=
  { st with busy := false, done := true, ok := false, result := resultBits c, fault := true }

/-- A host write was dropped (10 R28). -/
def statusOverrun (st : Status) : Status := { st with ovr := true }

end Sys2Proof.Machine
end

