-- ==== Sys2Proof/Syntax.lean ====
section
/-! DEFINITION. The instructions: one constructor per row of spec/opcode_table.json. The first four are the commands
a host writes to CMD (30 R82), whose operands are all implicit (30 R87); the other sixteen are the rows a record header
dispatches to (30 R85), whose operands are the header's fields that the row leaves open. -/

namespace Sys2Proof

/-- The block's instructions. `id` is the header field ID and `len` the header field LEN (30 R83). -/
inductive Instr where
  | nop
  | encode
  | decode
  | reservedCmd
  | decForeign00 (id : BitVec 4) (len : BitVec 6)
  | decForeign01 (id : BitVec 4) (len : BitVec 6)
  | decForeign11 (id : BitVec 4) (len : BitVec 6)
  | decUtf8 (len : BitVec 6)
  | decNumerical (len : BitVec 6)
  | decDate (len : BitVec 6)
  | decUpper (len : BitVec 6)
  | decLower (len : BitVec 6)
  | decEmail (len : BitVec 6)
  | decEmailsym (len : BitVec 6)
  | decAlphanum (len : BitVec 6)
  | decAlphasym (len : BitVec 6)
  | decEuropean (len : BitVec 6)
  | decLatin1 (len : BitVec 6)
  | decBadId11 (len : BitVec 6)
  | decBadId12to15 (id : BitVec 4) (len : BitVec 6)
  deriving DecidableEq, Repr

end Sys2Proof
end

