-- ==== Sys2Proof/WellFormed.lean ====
section
/-! DEFINITION. Which terms of `Instr` an encoding can stand for. The one constraint is that of the row
DEC.BADID (ID 12..15): its ID lies in 12..15 (spec 30 R85). -/

namespace Sys2Proof

/-- Whether an instruction has an encoding. -/
def Instr.wellFormed : Instr → Bool
  | .decBadId12to15 id _ => decide (12 ≤ id.toNat)
  | .nop | .encode | .decode | .reservedCmd => true
  | .decForeign00 _ _ | .decForeign01 _ _ | .decForeign11 _ _ => true
  | .decUtf8 _ | .decNumerical _ | .decDate _ | .decUpper _ | .decLower _ | .decEmail _ => true
  | .decEmailsym _ | .decAlphanum _ | .decAlphasym _ | .decEuropean _ | .decLatin1 _ | .decBadId11 _ => true

end Sys2Proof
end

