-- ==== Sys2Proof/Decode.lean ====
section
/-! DEFINITION. The decoder of the two instruction formats (spec 30 R81 to R85, R88) and, after it, the encoder.
Both formats sit in a 32-bit register (CMD, HDR), four bytes with the least significant first (20 R63). -/

namespace Sys2Proof

/-- The two formats that select behaviour (30 R80): the command word in CMD and the record header in HDR. -/
inductive Format where
  | cmd
  | hdr
  deriving DecidableEq, Repr

/-- Why bytes are not an instruction: both formats are exactly one 32-bit register. -/
inductive DecodeError where
  /-- The byte string is not four bytes long. Raised by `decode`; safe. -/
  | notOneRegister (nbytes : Nat)
  deriving DecidableEq, Repr

/-- `v[hi:lo]` of a word, for a field of `w` bits at `lo` (00 R13). -/
def field {n : Nat} (v : BitVec n) (lo w : Nat) : BitVec w := v.extractLsb' lo w

/-- The CMD opcode map, total on all words: bits 31:2 are ignored (30 R81, R82). -/
def decodeCmd (w : Word) : Instr :=
  match (field w 0 2).toNat with
  | 0 => .nop
  | 1 => .encode
  | 2 => .decode
  | _ => .reservedCmd

/-- The header dispatch map, total on all 12-bit headers (30 R83, R85). -/
def decodeHdr (h : BitVec 12) : Instr :=
  let tag := field h 10 2
  let id := field h 6 4
  let len := field h 0 6
  match tag.toNat with
  | 0 => .decForeign00 id len
  | 1 => .decForeign01 id len
  | 2 =>
    match id.toNat with
    | 0 => .decUtf8 len
    | 1 => .decNumerical len
    | 2 => .decDate len
    | 3 => .decUpper len
    | 4 => .decLower len
    | 5 => .decEmail len
    | 6 => .decEmailsym len
    | 7 => .decAlphanum len
    | 8 => .decAlphasym len
    | 9 => .decEuropean len
    | 10 => .decLatin1 len
    | 11 => .decBadId11 len
    | _ => .decBadId12to15 id len
  | _ => .decForeign11 id len

/-- The instruction in a register of the given format: HDR bits 31:12 are ignored (30 R88 f). -/
def decodeWord (f : Format) (w : Word) : Instr :=
  match f with
  | .cmd => decodeCmd w
  | .hdr => decodeHdr (field w 0 12)

/-- Four bytes, the least significant first, as a word (20 R63). -/
def wordOfBytes (b0 b1 b2 b3 : Byte) : Word := ((b3 ++ b2) ++ b1) ++ b0

/-- A word as its four bytes, the least significant first (20 R63). -/
def bytesOfWord (w : Word) : List Byte := [field w 0 8, field w 8 8, field w 16 8, field w 24 8]

/-- The decoder: total on byte strings, rejecting by name what is not one register. -/
def decode (f : Format) (bs : List Byte) : Except DecodeError Instr :=
  match bs with
  | [b0, b1, b2, b3] => .ok (decodeWord f (wordOfBytes b0 b1 b2 b3))
  | _ => .error (.notOneRegister bs.length)

/-- The format of an instruction's row. -/
def formatOf : Instr → Format
  | .nop | .encode | .decode | .reservedCmd => .cmd
  | .decForeign00 _ _ | .decForeign01 _ _ | .decForeign11 _ _ => .hdr
  | .decUtf8 _ | .decNumerical _ | .decDate _ | .decUpper _ | .decLower _ | .decEmail _ => .hdr
  | .decEmailsym _ | .decAlphanum _ | .decAlphasym _ | .decEuropean _ | .decLatin1 _ => .hdr
  | .decBadId11 _ | .decBadId12to15 _ _ => .hdr

/-- A header from its fields: `(TAG << 10) | (ID << 6) | LEN` (30 R83). -/
def headerWord (tag : BitVec 2) (id : BitVec 4) (len : BitVec 6) : BitVec 12 := (tag ++ id) ++ len

/-- The register word of an instruction; software writes 0 in the ignored bits (30 R81). -/
def encodeWord : Instr → Word
  | .nop => 0#32
  | .encode => 1#32
  | .decode => 2#32
  | .reservedCmd => 3#32
  | .decForeign00 id len => (headerWord 0b00#2 id len).setWidth 32
  | .decForeign01 id len => (headerWord 0b01#2 id len).setWidth 32
  | .decForeign11 id len => (headerWord 0b11#2 id len).setWidth 32
  | .decUtf8 len => (headerWord 0b10#2 0#4 len).setWidth 32
  | .decNumerical len => (headerWord 0b10#2 1#4 len).setWidth 32
  | .decDate len => (headerWord 0b10#2 2#4 len).setWidth 32
  | .decUpper len => (headerWord 0b10#2 3#4 len).setWidth 32
  | .decLower len => (headerWord 0b10#2 4#4 len).setWidth 32
  | .decEmail len => (headerWord 0b10#2 5#4 len).setWidth 32
  | .decEmailsym len => (headerWord 0b10#2 6#4 len).setWidth 32
  | .decAlphanum len => (headerWord 0b10#2 7#4 len).setWidth 32
  | .decAlphasym len => (headerWord 0b10#2 8#4 len).setWidth 32
  | .decEuropean len => (headerWord 0b10#2 9#4 len).setWidth 32
  | .decLatin1 len => (headerWord 0b10#2 10#4 len).setWidth 32
  | .decBadId11 len => (headerWord 0b10#2 11#4 len).setWidth 32
  | .decBadId12to15 id len => (headerWord 0b10#2 id len).setWidth 32

/-- The bytes of an instruction's register word. -/
def encode (i : Instr) : List Byte := bytesOfWord (encodeWord i)

/-- Which format a row of spec/opcode_table.json has, told by how many bits the table gives it: the CMD rows fix bits
1:0 of a 32-bit word, the header rows bits of a 12-bit header (log 14). -/
def formatOfTableBits (nbits : Nat) : Option Format :=
  if nbits = 12 ∨ nbits = 16 then some .hdr
  else if nbits = 2 ∨ nbits = 8 ∨ nbits = 32 then some .cmd
  else none

/-- The instruction the decoder reads from a table word, laid out as the register's four bytes. -/
def decodeTableWord (nbits w : Nat) : Option Instr :=
  match formatOfTableBits nbits with
  | none => none
  | some f =>
    match decode f (bytesOfWord (BitVec.ofNat 32 w)) with
    | .ok i => some i
    | .error _ => none

end Sys2Proof
end

