-- ==== Sys2Proof/Machine/Alphabet.lean ====
section
/-! DEFINITION. The alphabet table: descriptors (spec 40 R100), classifier (40 R101), the character/code LUT
(40 R105, R106) and the keep masks (41 R145), with the constraints that any choice of the synthesis parameters must
meet (00 R8, 40 R118). -/

namespace Sys2Proof.Machine

/-- The id of an alphabet (40 R100). -/
def alphabetId : Alphabet → Nat
  | .utf8 => 0
  | .numerical => 1
  | .date => 2
  | .upper => 3
  | .lower => 4
  | .email => 5
  | .emailsym => 6
  | .alphanum => 7
  | .alphasym => 8
  | .european => 9
  | .latin1 => 10

/-- The alphabet with a given id; ids 11 and up are undefined (00 R10). -/
def alphabetOfId : Nat → Option Alphabet
  | 0 => some .utf8
  | 1 => some .numerical
  | 2 => some .date
  | 3 => some .upper
  | 4 => some .lower
  | 5 => some .email
  | 6 => some .emailsym
  | 7 => some .alphanum
  | 8 => some .alphasym
  | 9 => some .european
  | 10 => some .latin1
  | _ => none

/-- The bits per character (40 R100). -/
def alphabetStep : Alphabet → Nat
  | .utf8 => 8
  | .numerical => 4
  | .date => 4
  | .upper => 5
  | .lower => 5
  | .email => 5
  | .emailsym => 6
  | .alphanum => 6
  | .alphasym => 6
  | .european => 7
  | .latin1 => 8

/-- The mask of an alphabet, `2^step - 1` (40 R100). -/
def alphabetMask (a : Alphabet) : Nat := 2 ^ alphabetStep a - 1

/-- The restricted alphabets, ids 1..9, in the order they are tried (41 R149). -/
def restrictedAlphabets : List Alphabet :=
  [.numerical, .date, .upper, .lower, .email, .emailsym, .alphanum, .alphasym, .european]

/-- The capacity in bytes, `P / 8` (00 R9). -/
def maxBytes (c : Config) : Nat := c.p / 8

/-- The capacity of an alphabet in code groups (00 R9): `floor(P/step)`, which is `P/8` for ids 0 and 10. -/
def maxLength (c : Config) (a : Alphabet) : Nat := c.p / alphabetStep a

/-- The number of PAYLOAD words that hold payload bits (00 R9). -/
def payloadWordCount (c : Config) : Nat := (c.p + 31) / 32

/-- The ten punctuation marks by local index (00 R16). -/
def marks : List CodeUnit := [0x20, 0x5F, 0x2E, 0x2D, 0x3A, 0x2F, 0x2B, 0x2C, 0x27, 0x40]

/-- The position of the first element satisfying `p`. -/
def indexOf {α : Type} (p : α → Bool) : List α → Option Nat
  | [] => none
  | x :: xs => if p x then some 0 else (indexOf p xs).map (· + 1)

/-- The local index of a punctuation mark (00 R16). -/
def markIndex (u : CodeUnit) : Option Nat := indexOf (· == u) marks

/-- The classifier (40 R101). -/
def classify (u : CodeUnit) : CharClass :=
  match markIndex u with
  | some k => { kind := .punct, val := BitVec.ofNat 8 k }
  | none =>
    let n := u.toNat
    let low := u.setWidth 8
    if 0x41 ≤ n ∧ n ≤ 0x5A then { kind := .upper, val := low }
    else if 0x61 ≤ n ∧ n ≤ 0x7A then { kind := .lower, val := low }
    else if 0x30 ≤ n ∧ n ≤ 0x39 then { kind := .digit, val := low }
    else if 0xC0 ≤ n ∧ n ≤ 0xFF ∧ n ≠ 0xD7 ∧ n ≠ 0xF7 then { kind := .accent, val := low }
    else { kind := .other, val := 0 }

/-- The grid of a restricted alphabet (40 R105 `table(id)`); ids 0 and 10 have none (40 R117, R119). -/
def gridOf (c : Config) : Alphabet → Grid
  | .numerical => c.codes.numerical
  | .date => c.codes.date
  | .upper => c.codes.upper
  | .lower => c.codes.lower
  | .email => c.codes.email
  | .emailsym => c.codes.emailsym
  | .alphanum => c.codes.alphanum
  | .alphasym => c.codes.alphasym
  | .european => c.codes.european
  | .utf8 | .latin1 => []

/-- `UNRES(id)` (40 R105). -/
def unresolved (c : Config) : Alphabet → List Nat
  | .date => c.unresDate
  | .european => c.unresEuropean
  | .alphasym => c.unresAlphasym
  | .numerical | .upper | .lower | .email | .emailsym | .alphanum | .utf8 | .latin1 => []

/-- The Latin-1 character a class stands for (40 R104, R105). OTHER and punctuation indices above 9 stand for no
character (log 16). -/
def classChar (cl : CharClass) : Option Byte :=
  match cl.kind with
  | .punct => (marks[cl.val.toNat]?).map (fun u => u.setWidth 8)
  | .upper | .lower | .digit | .accent => some cl.val
  | .other => none

/-- The result of `LUT_enc` (40 R105). -/
inductive LutResult where
  | ok (code : Nat)
  | unres
  | miss
  deriving DecidableEq, Repr

/-- `LUT_enc(id, cls)` (40 R105): MISS is tested before UNRES. -/
def lutEnc (c : Config) (a : Alphabet) (cl : CharClass) : LutResult :=
  match classChar cl with
  | none => .miss
  | some ch =>
    match indexOf (fun x => x == some ch) (gridOf c a) with
    | none => .miss
    | some code => if cl.kind = .punct ∧ cl.val.toNat ∈ unresolved c a then .unres else .ok code

/-- `LUT_dec(id, code)` (40 R106): `none` is NONE, a spare code or the code of an unresolved mark. -/
def lutDec (c : Config) (a : Alphabet) (code : Nat) : Option CodeUnit :=
  match (gridOf c a)[code]? with
  | none => none
  | some none => none
  | some (some ch) =>
    let u : CodeUnit := ch.setWidth 16
    match markIndex u with
    | some k => if k ∈ unresolved c a then none else some u
    | none => some u

/-- The keep masks (41 R145); bit id-1 stands for alphabet id. -/
def keepMask (cl : CharClass) : BitVec 9 :=
  match cl.kind with
  | .punct =>
    match cl.val.toNat with
    | 0 => 0x1EF
    | 1 => 0x1FC
    | 2 => 0x1BF
    | 3 => 0x1BF
    | 4 => 0x0AE
    | 5 => 0x0AC
    | 6 => 0x0B3
    | 7 => 0x0B3
    | 8 => 0x0A1
    | 9 => 0x0B0
    | _ => 0x000
  | .upper => 0x1C4
  | .lower => 0x1F8
  | .digit => 0x163
  | .accent => 0x100
  | .other => 0x000

/-- Whether the candidate mask holds a restricted alphabet (10 R39). -/
def candHas (cand : BitVec 9) (a : Alphabet) : Bool := cand.getLsbD (alphabetId a - 1)

/-- One kind of class over consecutive character values. -/
def classRun (k : Kind) (lo n : Nat) : List CharClass :=
  (List.range n).map fun j => { kind := k, val := BitVec.ofNat 8 (lo + j) }

/-- Every class but OTHER that the classifier yields (40 R101, R103). -/
def properClasses : List CharClass :=
  classRun .punct 0 10 ++ classRun .upper 0x41 26 ++ classRun .lower 0x61 26 ++ classRun .digit 0x30 10
    ++ classRun .accent 0xC0 23 ++ classRun .accent 0xD8 31 ++ classRun .accent 0xF8 8

/-- Whether a grid entry is spare or a character that some encode produces, so not of class OTHER (40 R106). -/
def entryProper : Option Byte → Bool
  | none => true
  | some ch => decide ((classify (ch.setWidth 16)).kind ≠ .other)

/-- Constraint (1) of 40 R118 for one alphabet: the grid has one entry per code, and no character has two codes;
and its entries are characters the encoder can produce (40 R106). -/
def gridProper (c : Config) (a : Alphabet) : Bool :=
  (gridOf c a).length == 2 ^ alphabetStep a && decide (((gridOf c a).filter Option.isSome).Nodup)
    && (gridOf c a).all entryProper

/-- Constraints (3) and (4) of 40 R118 for one alphabet: the keep mask of a class leaves the alphabet exactly when
the LUT does not answer MISS. -/
def gridMatchesKeep (c : Config) (a : Alphabet) : Bool :=
  properClasses.all fun cl => candHas (keepMask cl) a == decide (lutEnc c a cl ≠ .miss)

/-- The legal synthesis parameters: P as 00 R8 requires, tables and unresolved slots as 40 R106 and 40 R118 (1) and
(3) to (6) require. (2) holds of any grid whose characters have one code each, and (7) is fixed by `alphabetStep`. -/
def Config.legal (c : Config) : Bool :=
  decide (c.p % 8 = 0 ∧ 8 ≤ c.p ∧ c.p ≤ 504)
    && restrictedAlphabets.all (fun a => gridProper c a && gridMatchesKeep c a)
    && c.unresDate.all (fun k => decide (k ∈ [0, 2, 3, 4, 6, 7]))
    && c.unresEuropean.all (fun k => decide (k ∈ [0, 1, 2, 3]))
    && c.unresAlphasym.all (fun k => decide (k ≤ 9))
    && decide (lutEnc c .numerical { kind := .digit, val := 0x30 } = .ok 0)

end Sys2Proof.Machine
end

