-- ==== Sys2Proof/Machine/Operands.lean ====
section
/-! DEFINITION. Operand assembly (spec 30 R87): the string of ENCODE, the header fields and payload integer of DECODE,
and the payload marshaller between the P-bit integer and the PAYLOAD words (10 R33, 42 R181). -/

namespace Sys2Proof.Machine

/-- A vector whose entry `k` is `f k`. -/
def vectorOf {α : Type} (n : Nat) (f : Nat → α) : Vector α n := ⟨⟨(List.range n).map f⟩, by simp⟩

/-- `L = x[IN_LEN][15:0]` (30 R87). -/
def stringLength (s : State) : Nat := s.inLen.toNat

/-- `s[k] = x[CHAR_IN k][15:0]` (30 R87). -/
def charAt (s : State) (k : Nat) : CodeUnit := s.charIn.getD k 0

/-- `s[0..L-1]` (30 R87): no entry at or above 64 exists. -/
def stringUnits (s : State) : List CodeUnit := s.charIn.toList.take (stringLength s)

/-- TAG of a header (43 R201). -/
def hdrTag (h : BitVec 12) : BitVec 2 := field h 10 2

/-- ID of a header (43 R201). -/
def hdrId (h : BitVec 12) : BitVec 4 := field h 6 4

/-- LEN of a header (43 R201). -/
def hdrLen (h : BitVec 12) : BitVec 6 := field h 0 6

/-- The header generator (42 R180): `(0b10 << 10) | (id << 6) | len`. -/
def headerOf (a : Alphabet) (len : Nat) : BitVec 12 :=
  headerWord 0b10#2 (BitVec.ofNat 4 (alphabetId a)) (BitVec.ofNat 6 len)

/-- `sum over k < n of (word k << 32k)` (10 R33). -/
def sumWords (v : Vector Word 16) : Nat → Nat
  | 0 => 0
  | n + 1 => sumWords v n + (v.getD n 0).toNat <<< (32 * n)

/-- `load_payload` (42 R181): the payload as one P-bit integer. -/
def payloadValue (s : State) : Nat := sumWords s.payload (payloadWordCount s.cfg) % 2 ^ s.cfg.p

/-- `store_payload` (42 R181): the sixteen words of a P-bit integer. -/
def payloadWords (a : Nat) : Vector Word 16 := vectorOf 16 fun k => BitVec.ofNat 32 (a >>> (32 * k))

/-- The bits of PAYLOAD word `k` that exist, those at payload positions below P (10 R33). -/
def payloadMask (c : Config) (k : Nat) : Word := BitVec.ofNat 32 (2 ^ min 32 (c.p - 32 * k) - 1)

end Sys2Proof.Machine
end

