-- ==== Sys2Proof/Machine/Ops.lean ====
section
/-! DEFINITION. The named operations: the bit register BR (spec 42 R170 to R176), the packer (42 R177), the register
file as the host reads and writes it (10 R21 to R48, 20 R61, R62), the start and the two ends of a command
(10 R21, 60 R252, R254), the two commits (42 R183, 43 R210), and reset (70 R280). -/

namespace Sys2Proof.Machine

/-- `BR.zero` (42 R171). -/
def brZero : Nat := 0

/-- `BR.shiftLeft(n)`: bits past bit P-1 are discarded (42 R172). -/
def brShiftLeft (p acc n : Nat) : Nat := (acc <<< n) % 2 ^ p

/-- `BR.shiftRight(n)` (42 R173). -/
def brShiftRight (acc n : Nat) : Nat := acc >>> n

/-- `BR.orLow(v, m)` (42 R174). -/
def brOrLow (acc v m : Nat) : Nat := acc ||| (v &&& m)

/-- `BR.readLowByte(m)`: `ACC[7:0] & m` (42 R175). -/
def brReadLowByte (acc m : Nat) : Nat := (acc % 2 ^ 8) &&& m

/-- `BR.readAll(m)` (42 R176). -/
def brReadAll (acc m : Nat) : Nat := acc &&& m

/-- The packer's loop after the first character: shift, then OR (42 R177). -/
def packRest (p w : Nat) : Nat → List Nat → Nat
  | acc, [] => acc
  | acc, c :: cs => packRest p w (brOrLow (brShiftLeft p acc w) c (2 ^ w - 1)) cs

/-- `pack(c, n, w)`: the first character is not preceded by a shift (42 R177). -/
def pack (p w : Nat) : List Nat → Nat
  | [] => brZero
  | c :: cs => packRest p w (brOrLow brZero c (2 ^ w - 1)) cs

/-- Reading `n` code groups of `w` bits from the low end, the last character first (43 R206): the list is in
string order. -/
def unpackGroups (w : Nat) : Nat → Nat → List Nat → List Nat
  | 0, _, out => out
  | n + 1, acc, out => unpackGroups w n (brShiftRight acc w) (brReadLowByte acc (2 ^ w - 1) :: out)

/-- The registers of the map (20 R61). -/
inductive Reg where
  | cmd | status | config | inLen | hdr | outLen
  | payload (k : Nat)
  | charIn (k : Nat)
  | charOut (k : Nat)
  | reserved
  deriving DecidableEq, Repr

/-- The register at a byte offset of the 4 KiB space (20 R61). -/
def regAt (off : Nat) : Reg :=
  if off = 0x000 then .cmd
  else if off = 0x004 then .status
  else if off = 0x008 then .config
  else if off = 0x00C then .inLen
  else if off = 0x010 then .hdr
  else if off = 0x014 then .outLen
  else if 0x040 ≤ off ∧ off < 0x080 then .payload ((off - 0x040) / 4)
  else if 0x100 ≤ off ∧ off < 0x200 then .charIn ((off - 0x100) / 4)
  else if 0x200 ≤ off ∧ off < 0x300 then .charOut ((off - 0x200) / 4)
  else .reserved

/-- The byte offset of a register, `off(reg)` (30 R90); the first reserved offset stands for all of them. -/
def regOffset : Reg → Nat
  | .cmd => 0x000
  | .status => 0x004
  | .config => 0x008
  | .inLen => 0x00C
  | .hdr => 0x010
  | .outLen => 0x014
  | .payload k => 0x040 + 4 * k
  | .charIn k => 0x100 + 4 * k
  | .charOut k => 0x200 + 4 * k
  | .reserved => 0x018

/-- The value a host read returns: CMD and reserved offsets read 0, unused bits read 0 (10 R21 to R35, R48;
20 R62). -/
def readReg (s : State) : Reg → Word
  | .cmd => 0
  | .status => statusWord s.status
  | .config => BitVec.ofNat 32 (s.cfg.p % 2 ^ 10)
  | .inLen => s.inLen.setWidth 32
  | .hdr => s.hdr.setWidth 32
  | .outLen => s.outLen.setWidth 32
  | .payload k => s.payload.getD k 0
  | .charIn k => (s.charIn.getD k 0).setWidth 32
  | .charOut k => (s.charOut.getD k 0).setWidth 32
  | .reserved => 0

/-- One byte of the register space: lane `off mod 4` of the register there (20 R63). The block has no other memory
(20 R60; log 15). -/
def readByte (s : State) (off : Nat) : Byte := field (readReg s (regAt (off / 4 * 4))) (8 * (off % 4)) 8

/-- What a host write to a register other than CMD stores, while BUSY = 0: read-only registers, reserved bits and
reserved offsets ignore it (10 R30 to R34, R48; 20 R62). A write to CMD is the host port's (Machine/Run.lean). -/
def writeReg (s : State) (r : Reg) (v : Word) : State :=
  match r with
  | .inLen => { s with inLen := v.setWidth 16 }
  | .hdr => { s with hdr := v.setWidth 12 }
  | .payload k => { s with payload := s.payload.setIfInBounds k (v &&& payloadMask s.cfg k) }
  | .charIn k => { s with charIn := s.charIn.setIfInBounds k (v.setWidth 16) }
  | .cmd | .status | .config | .outLen | .charOut _ | .reserved => s

/-- The state a started command begins in, by its OP (10 R21). -/
def startFsm (op : BitVec 2) : Fsm :=
  match op.toNat with
  | 1 => .encGate
  | 2 => .decCheck
  | _ => .badCmd

/-- An accepted CMD write with OP ≠ 0 starts a command (10 R21). -/
def startCommand (op : BitVec 2) (s : State) : State :=
  { s with op := op, status := statusStarted s.status, fsm := startFsm op }

/-- A host write that arrives while BUSY = 1 is dropped (60 R258 a). -/
def dropWrite (s : State) : State := { s with status := statusOverrun s.status }

/-- `finish(r)`: a command ends with a normal result (60 R252). -/
def finish (r : ResultCode) (s : State) : State :=
  { s with status := statusFinished r s.status, fsm := .idle }

/-- TAKING AN EXCEPTION: `raise Fatal(c)` (60 R254, R260). The cause is saved in RESULT, FAULT is set and the engine
halts in FAULT; no address is saved, no mode changes, no other register is written. -/
def raiseFatal (c : ResultCode) (s : State) : State :=
  { s with status := statusFatal c s.status, fsm := .fault }

/-- THE ONLY RETURN FROM AN EXCEPTION (60 R261): the platform asserts reset, and every piece of state takes its reset
value (70 R280, R281). The parameters, the events to come and the host's own record of reads stay. -/
def assertReset (s : State) : State :=
  { State.resetWith s.cfg with inReset := true, bus := s.bus, observed := s.observed }

/-- `commit_encode` (42 R183). -/
def commitEncode (h : BitVec 12) (a : Nat) (s : State) : State :=
  finish .success { s with hdr := h, payload := payloadWords a }

/-- `commit_decode(N, out)` (43 R210), with `N` the length of `units`: every CHAR_OUT entry is written. -/
def commitDecode (units : List CodeUnit) (s : State) : State :=
  finish .success
    { s with outLen := BitVec.ofNat 7 units.length, charOut := vectorOf 64 fun k => units.getD k 0 }

end Sys2Proof.Machine
end

