-- ==== Sys2Proof/Machine/Utf8.lean ====
section
/-! DEFINITION. The UTF-16 to UTF-8 serialiser and the UTF-8 to UTF-16 deserialiser (spec 44). -/

namespace Sys2Proof.Machine

/-- `v[hi:lo]` of a number (00 R13). -/
def bitsOf (v hi lo : Nat) : Nat := v / 2 ^ lo % 2 ^ (hi - lo + 1)

/-- A high surrogate (44 R230). -/
def isHighSurrogate (u : CodeUnit) : Bool := decide (0xD800 ≤ u.toNat ∧ u.toNat ≤ 0xDBFF)

/-- A low surrogate (44 R230). -/
def isLowSurrogate (u : CodeUnit) : Bool := decide (0xDC00 ≤ u.toNat ∧ u.toNat ≤ 0xDFFF)

/-- The scalar value of a surrogate pair (44 R230). -/
def pairScalar (u v : CodeUnit) : Nat := 0x10000 + (u.toNat - 0xD800) * 2 ^ 10 + (v.toNat - 0xDC00)

/-- The scalar values of a string, or `none` if a surrogate is unpaired anywhere (44 R230, R231). -/
def utf16Scalars : List CodeUnit → Option (List Nat)
  | [] => some []
  | [u] => if isHighSurrogate u || isLowSurrogate u then none else some [u.toNat]
  | u :: v :: rest =>
    if isHighSurrogate u then
      if isLowSurrogate v then (utf16Scalars rest).map (pairScalar u v :: ·) else none
    else if isLowSurrogate u then none
    else (utf16Scalars (v :: rest)).map (u.toNat :: ·)

/-- The UTF-8 bytes of a scalar value, the first byte first (44 R232). The fields a prefix is ORed with lie below it,
so the sum is the OR. -/
def utf8OfScalar (cp : Nat) : List Byte :=
  let cont := fun hi lo => BitVec.ofNat 8 (0x80 + bitsOf cp hi lo)
  if cp ≤ 0x7F then [BitVec.ofNat 8 cp]
  else if cp ≤ 0x7FF then [BitVec.ofNat 8 (0xC0 + bitsOf cp 10 6), cont 5 0]
  else if cp ≤ 0xFFFF then [BitVec.ofNat 8 (0xE0 + bitsOf cp 15 12), cont 11 6, cont 5 0]
  else [BitVec.ofNat 8 (0xF0 + bitsOf cp 20 18), cont 17 12, cont 11 6, cont 5 0]

/-- `utf8_serialise` (44 R232): every byte of the string, or `none` for an unpaired surrogate. `nbytes` is the length
of the list; BYTES stores its first 63 entries (10 R41). -/
def utf8Serialise (s : List CodeUnit) : Option (List Byte) :=
  (utf16Scalars s).map fun cps => (cps.map utf8OfScalar).flatten

/-- A row of the table of well-formed sequences: the range of byte 0, and the ranges of the bytes after it. -/
structure Utf8Row where
  lead : Nat × Nat
  conts : List (Nat × Nat)
  deriving DecidableEq, Repr

/-- The well-formed UTF-8 byte sequences (44 R235). -/
def utf8Rows : List Utf8Row :=
  [ ⟨(0x00, 0x7F), []⟩,
    ⟨(0xC2, 0xDF), [(0x80, 0xBF)]⟩,
    ⟨(0xE0, 0xE0), [(0xA0, 0xBF), (0x80, 0xBF)]⟩,
    ⟨(0xE1, 0xEC), [(0x80, 0xBF), (0x80, 0xBF)]⟩,
    ⟨(0xED, 0xED), [(0x80, 0x9F), (0x80, 0xBF)]⟩,
    ⟨(0xEE, 0xEF), [(0x80, 0xBF), (0x80, 0xBF)]⟩,
    ⟨(0xF0, 0xF0), [(0x90, 0xBF), (0x80, 0xBF), (0x80, 0xBF)]⟩,
    ⟨(0xF1, 0xF3), [(0x80, 0xBF), (0x80, 0xBF), (0x80, 0xBF)]⟩,
    ⟨(0xF4, 0xF4), [(0x80, 0x8F), (0x80, 0xBF), (0x80, 0xBF)]⟩ ]

/-- Whether a byte lies in a range, both ends included. -/
def inByteRange (b : Byte) (r : Nat × Nat) : Bool := decide (r.1 ≤ b.toNat ∧ b.toNat ≤ r.2)

/-- Continuation bytes in their ranges: each adds its low six bits to the scalar value. `none` when a byte is missing
or outside its range. -/
def utf8Conts : List (Nat × Nat) → Nat → List Byte → Option Nat
  | [], cp, _ => some cp
  | _ :: _, _, [] => none
  | r :: rs, cp, b :: bs => if inByteRange b r then utf8Conts rs (cp * 2 ^ 6 + b.toNat % 2 ^ 6) bs else none

/-- The payload bits of a lead byte, by the number of bytes after it: the inverse of the table of 44 R232. -/
def utf8LeadBits (b : Byte) (n : Nat) : Nat :=
  match n with
  | 0 => b.toNat
  | 1 => b.toNat % 2 ^ 5
  | 2 => b.toNat % 2 ^ 4
  | _ => b.toNat % 2 ^ 3

/-- One scalar value from the front of a byte string, with the number of bytes it uses, or `none` if malformed
(44 R234, R235). -/
def utf8Scalar : List Byte → Option (Nat × Nat)
  | [] => none
  | b :: bs =>
    match utf8Rows.find? (fun r => inByteRange b r.lead) with
    | none => none
    | some r =>
      (utf8Conts r.conts (utf8LeadBits b r.conts.length) bs).map fun cp => (cp, r.conts.length + 1)

/-- The UTF-16 code units of a scalar value (44 R236). -/
def utf16OfScalar (cp : Nat) : List CodeUnit :=
  if cp ≤ 0xFFFF then [BitVec.ofNat 16 cp]
  else
    [BitVec.ofNat 16 (0xD800 + bitsOf (cp - 0x10000) 19 10), BitVec.ofNat 16 (0xDC00 + bitsOf (cp - 0x10000) 9 0)]

/-- The deserialiser's loop, with at most `fuel` scalars. -/
def utf8Loop : Nat → List Byte → Option (List CodeUnit)
  | _, [] => some []
  | 0, _ :: _ => none
  | fuel + 1, b :: bs =>
    match utf8Scalar (b :: bs) with
    | none => none
    | some (cp, used) => (utf8Loop fuel ((b :: bs).drop used)).map (utf16OfScalar cp ++ ·)

/-- `utf8_deserialise` (44 R234): a string of `n` bytes holds at most `n` scalars. -/
def utf8Deserialise (bs : List Byte) : Option (List CodeUnit) := utf8Loop bs.length bs

end Sys2Proof.Machine
end

