-- ==== Sys2Proof/Machine/Decoder.lean ====
section
/-! DEFINITION. The alphabet-dispatch decoder (spec 43): the function `dec` of 43 R200, the meaning of every row a
header dispatches to (30 R85), and the command DECODE, which runs the row of the header in HDR. -/

namespace Sys2Proof.Machine

/-- The result of `dec` (43 R200). -/
inductive DecResult where
  | success (units : List CodeUnit)
  | foreign
  | fatal (c : ResultCode)
  deriving DecidableEq, Repr

/-- The characters of restricted code groups, or `none` when a group has no inverse (43 R206, R207). -/
def decodeGroups (c : Config) (a : Alphabet) : List Nat → Option (List CodeUnit)
  | [] => some []
  | g :: gs =>
    match lutDec c a g, decodeGroups c a gs with
    | some u, some us => some (u :: us)
    | _, _ => none

/-- The characters of `len` code groups of a payload under an alphabet (43 R206 to R209): through the LUT for ids 1..9,
as they are for LATIN1, through the UTF-8 deserialiser for UTF8. -/
def decodePayload (c : Config) (a : Alphabet) (len payload : Nat) : DecResult :=
  let groups := unpackGroups (alphabetStep a) len payload []
  match a with
  | .utf8 =>
    match utf8Deserialise (groups.map (BitVec.ofNat 8)) with
    | none => .fatal .errBadUtf8
    | some us => .success us
  | .latin1 => .success (groups.map (BitVec.ofNat 16))
  | .numerical | .date | .upper | .lower | .email | .emailsym | .alphanum | .alphasym | .european =>
    match decodeGroups c a groups with
    | none => .fatal .errBadCode
    | some us => .success us

/-- `dec(hdr, payload)` (43 R200), in the order of 43 R216. -/
def dec (c : Config) (h : BitVec 12) (payload : Nat) : DecResult :=
  if hdrTag h ≠ 0b10 then .foreign
  else if brReadAll payload (2 ^ c.p - 1) = 0 then .success []
  else
    match alphabetOfId (hdrId h).toNat with
    | none => .fatal .errBadId
    | some a =>
      if maxLength c a < (hdrLen h).toNat then .fatal .errBadLength
      else decodePayload c a (hdrLen h).toNat payload

/-- What a result of `dec` does to the state (43 R202, R210; 60 R254). -/
def applyDecResult (r : DecResult) (s : State) : State :=
  match r with
  | .success us => commitDecode us s
  | .foreign => finish .foreign s
  | .fatal c => raiseFatal c s

/-- A row with a foreign tag (43 R202). -/
def rowForeign (s : State) : State := finish .foreign s

/-- A row with tag 0b10 and an undefined id: the zero payload comes first (43 R203, R204). -/
def rowBadId (s : State) : State :=
  if brReadAll (payloadValue s) (2 ^ s.cfg.p - 1) = 0 then commitDecode [] s else raiseFatal .errBadId s

/-- A row with tag 0b10 and a defined id: zero payload, length check, unpacking (43 R203, R205 to R209). -/
def rowAlphabet (a : Alphabet) (len : BitVec 6) (s : State) : State :=
  if brReadAll (payloadValue s) (2 ^ s.cfg.p - 1) = 0 then commitDecode [] s
  else if maxLength s.cfg a < len.toNat then raiseFatal .errBadLength s
  else applyDecResult (decodePayload s.cfg a len.toNat (payloadValue s)) s

/-- DEC.FOREIGN, TAG 0b00 (43 R202). -/
def execDecForeign00 (_id : BitVec 4) (_len : BitVec 6) (s : State) : Host.Outcome State Fault Refusal :=
  .next (rowForeign s)

/-- DEC.FOREIGN, TAG 0b01 (43 R202). -/
def execDecForeign01 (_id : BitVec 4) (_len : BitVec 6) (s : State) : Host.Outcome State Fault Refusal :=
  .next (rowForeign s)

/-- DEC.FOREIGN, TAG 0b11 (43 R202). -/
def execDecForeign11 (_id : BitVec 4) (_len : BitVec 6) (s : State) : Host.Outcome State Fault Refusal :=
  .next (rowForeign s)

/-- DEC.UTF8 (43 R209). -/
def execDecUtf8 (len : BitVec 6) (s : State) : Host.Outcome State Fault Refusal := .next (rowAlphabet .utf8 len s)

/-- DEC.NUMERICAL (43 R206, 40 R107). -/
def execDecNumerical (len : BitVec 6) (s : State) : Host.Outcome State Fault Refusal :=
  .next (rowAlphabet .numerical len s)

/-- DEC.DATE (43 R206, 40 R108). -/
def execDecDate (len : BitVec 6) (s : State) : Host.Outcome State Fault Refusal := .next (rowAlphabet .date len s)

/-- DEC.UPPER (43 R206, 40 R109). -/
def execDecUpper (len : BitVec 6) (s : State) : Host.Outcome State Fault Refusal := .next (rowAlphabet .upper len s)

/-- DEC.LOWER (43 R206, 40 R110). -/
def execDecLower (len : BitVec 6) (s : State) : Host.Outcome State Fault Refusal := .next (rowAlphabet .lower len s)

/-- DEC.EMAIL (43 R206, 40 R111). -/
def execDecEmail (len : BitVec 6) (s : State) : Host.Outcome State Fault Refusal := .next (rowAlphabet .email len s)

/-- DEC.EMAILSYM (43 R206, 40 R112). -/
def execDecEmailsym (len : BitVec 6) (s : State) : Host.Outcome State Fault Refusal :=
  .next (rowAlphabet .emailsym len s)

/-- DEC.ALPHANUM (43 R206, 40 R113). -/
def execDecAlphanum (len : BitVec 6) (s : State) : Host.Outcome State Fault Refusal :=
  .next (rowAlphabet .alphanum len s)

/-- DEC.ALPHASYM (43 R206, 40 R114). -/
def execDecAlphasym (len : BitVec 6) (s : State) : Host.Outcome State Fault Refusal :=
  .next (rowAlphabet .alphasym len s)

/-- DEC.EUROPEAN (43 R206, 40 R115). -/
def execDecEuropean (len : BitVec 6) (s : State) : Host.Outcome State Fault Refusal :=
  .next (rowAlphabet .european len s)

/-- DEC.LATIN1 (43 R208). -/
def execDecLatin1 (len : BitVec 6) (s : State) : Host.Outcome State Fault Refusal := .next (rowAlphabet .latin1 len s)

/-- DEC.BADID, ID 11 (43 R204). -/
def execDecBadId11 (_len : BitVec 6) (s : State) : Host.Outcome State Fault Refusal := .next (rowBadId s)

/-- DEC.BADID, ID 12..15 (43 R204). -/
def execDecBadId12to15 (_id : BitVec 4) (_len : BitVec 6) (s : State) : Host.Outcome State Fault Refusal :=
  .next (rowBadId s)

/-- DECODE (43 R200, 30 R85): the row that the header in HDR dispatches to. A command word is no header's row; those
four arms are never taken (`decodeHdr` yields none of them) and leave the state as it is. -/
def execDecode (s : State) : Host.Outcome State Fault Refusal :=
  match decodeHdr s.hdr with
  | .decForeign00 id len => execDecForeign00 id len s
  | .decForeign01 id len => execDecForeign01 id len s
  | .decForeign11 id len => execDecForeign11 id len s
  | .decUtf8 len => execDecUtf8 len s
  | .decNumerical len => execDecNumerical len s
  | .decDate len => execDecDate len s
  | .decUpper len => execDecUpper len s
  | .decLower len => execDecLower len s
  | .decEmail len => execDecEmail len s
  | .decEmailsym len => execDecEmailsym len s
  | .decAlphanum len => execDecAlphanum len s
  | .decAlphasym len => execDecAlphasym len s
  | .decEuropean len => execDecEuropean len s
  | .decLatin1 len => execDecLatin1 len s
  | .decBadId11 len => execDecBadId11 len s
  | .decBadId12to15 id len => execDecBadId12to15 id len s
  | .nop => .next s
  | .encode => .next s
  | .decode => .next s
  | .reservedCmd => .next s

end Sys2Proof.Machine
end

