-- ==== Sys2Proof/Machine/Select.lean ====
section
/-! DEFINITION. The candidate selector (spec 41): length gate, empty string, Latin-1 first, UTF-8 fallback, narrowing,
ordered tries, as the one function `select` of 41 R156. -/

namespace Sys2Proof.Machine

/-- The result of `select` (41 R156). -/
inductive Selection where
  | success (a : Alphabet) (len payload : Nat)
  | nofit
  | fatal (c : ResultCode)
  deriving DecidableEq, Repr

/-- The initial candidate set: the restricted alphabets with capacity for `L` units (41 R144). -/
def initCand (c : Config) (L : Nat) : BitVec 9 :=
  restrictedAlphabets.foldl
    (fun m a => if L ≤ maxLength c a then m ||| (1#9 <<< (alphabetId a - 1)) else m) 0

/-- The narrowing pass (41 R146, R148): the classes met and the mask left; it stops when the mask is empty. -/
def narrow (cand : BitVec 9) : List CodeUnit → BitVec 9 × List CharClass
  | [] => (cand, [])
  | u :: us =>
    if cand = 0 then (cand, [])
    else
      let cl := classify u
      let rest := narrow (cand &&& keepMask cl) us
      (rest.1, cl :: rest.2)

/-- The outcome of one try (41 R150). -/
inductive TryResult where
  | pass (acc : Nat)
  | fail
  | contract
  deriving DecidableEq, Repr

/-- The loop of `try(id)` after the first character (41 R150). -/
def tryRest (c : Config) (a : Alphabet) : Nat → List CharClass → TryResult
  | acc, [] => .pass acc
  | acc, cl :: cls =>
    match lutEnc c a cl with
    | .unres => .fail
    | .miss => .contract
    | .ok code => tryRest c a (brOrLow (brShiftLeft c.p acc (alphabetStep a)) code (alphabetMask a)) cls

/-- `try(id)` (41 R150): codes are resolved and packed left to right; the first non-OK code decides. -/
def tryAlphabet (c : Config) (a : Alphabet) : List CharClass → TryResult
  | [] => .pass brZero
  | cl :: cls =>
    match lutEnc c a cl with
    | .unres => .fail
    | .miss => .contract
    | .ok code => tryRest c a (brOrLow brZero code (alphabetMask a)) cls

/-- The ordered tries over the alphabets left (41 R149). -/
def tryAll (c : Config) (L : Nat) (cand : BitVec 9) (cls : List CharClass) : List Alphabet → Selection
  | [] => .nofit
  | a :: as =>
    if candHas cand a = true ∧ L ≤ maxLength c a then
      match tryAlphabet c a cls with
      | .pass acc => .success a L acc
      | .fail => tryAll c L cand cls as
      | .contract => .fatal .errContract
    else tryAll c L cand cls as

/-- `pack8` of bytes (41 R156, 42 R186, R187). -/
def packBytes (c : Config) (bs : List Byte) : Nat := pack c.p 8 (bs.map BitVec.toNat)

/-- Whether a string of `L` units is at or below the length gate (41 R140). -/
def passesGate (c : Config) (L : Nat) : Bool := decide (L ≤ 63 ∧ L ≤ maxLength c .numerical)

/-- Whether every unit is a Latin-1 character (41 R142). -/
def allLatin1 (us : List CodeUnit) : Bool := us.all fun u => decide (u.toNat ≤ 0xFF)

/-- The UTF-8 attempt (41 R152). -/
def selectUtf8 (c : Config) (us : List CodeUnit) : Selection :=
  match utf8Serialise us with
  | none => .fatal .errBadUtf16
  | some bs => if bs.length ≤ min (maxBytes c) 63 then .success .utf8 bs.length (packBytes c bs) else .nofit

/-- Narrowing and the ordered tries (41 R144 to R151). -/
def selectRestricted (c : Config) (L : Nat) (us : List CodeUnit) : Selection :=
  let r := narrow (initCand c L) us
  tryAll c L r.1 r.2 restrictedAlphabets

/-- `select(L, s)` (41 R156). `us` is `s[0..L-1]`, which holds `L` units whenever the gate lets `L` pass. -/
def select (c : Config) (L : Nat) (us : List CodeUnit) : Selection :=
  if passesGate c L = false then .nofit
  else if L = 0 then .success .utf8 0 0
  else if L ≤ maxBytes c then
    if allLatin1 us then .success .latin1 L (packBytes c (us.map fun u => u.setWidth 8))
    else selectUtf8 c us
  else selectRestricted c L us

end Sys2Proof.Machine
end

