-- ==== Sys2Proof/Machine/Encoder.lean ====
section
/-! DEFINITION. The meanings of the commands ENCODE, NOP and the reserved OP 3 (spec 42 R182 to R190). They are the
engine's action on a command that the host port has accepted and started (10 R21, Machine/Run.lean; log 18). -/

namespace Sys2Proof.Machine

/-- What a selection does to the state (42 R182 to R185). -/
def applySelection (r : Selection) (s : State) : State :=
  match r with
  | .success a len acc => commitEncode (headerOf a len) acc s
  | .nofit => finish .nofit s
  | .fatal c => raiseFatal c s

/-- ENCODE (42 R182). -/
def execEncode (s : State) : Host.Outcome State Fault Refusal :=
  .next (applySelection (select s.cfg (stringLength s) (stringUnits s)) s)

/-- NOP (42 R189): an accepted NOP has no effect. -/
def execNop (s : State) : Host.Outcome State Fault Refusal := .next s

/-- The reserved command (42 R190). -/
def execReservedCmd (s : State) : Host.Outcome State Fault Refusal := .next (raiseFatal .errBadCmd s)

end Sys2Proof.Machine
end

