-- ==== Sys2Proof/Machine/Dispatch.lean ====
section
/-! DEFINITION. One arm per constructor of `Instr`: its meaning. -/

namespace Sys2Proof.Machine

/-- The meaning of an instruction. -/
def exec (i : Instr) (s : State) : Host.Outcome State Fault Refusal :=
  match i with
  | .nop => Sys2Proof.Machine.execNop s
  | .encode => Sys2Proof.Machine.execEncode s
  | .decode => Sys2Proof.Machine.execDecode s
  | .reservedCmd => Sys2Proof.Machine.execReservedCmd s
  | .decForeign00 id len => Sys2Proof.Machine.execDecForeign00 id len s
  | .decForeign01 id len => Sys2Proof.Machine.execDecForeign01 id len s
  | .decForeign11 id len => Sys2Proof.Machine.execDecForeign11 id len s
  | .decUtf8 len => Sys2Proof.Machine.execDecUtf8 len s
  | .decNumerical len => Sys2Proof.Machine.execDecNumerical len s
  | .decDate len => Sys2Proof.Machine.execDecDate len s
  | .decUpper len => Sys2Proof.Machine.execDecUpper len s
  | .decLower len => Sys2Proof.Machine.execDecLower len s
  | .decEmail len => Sys2Proof.Machine.execDecEmail len s
  | .decEmailsym len => Sys2Proof.Machine.execDecEmailsym len s
  | .decAlphanum len => Sys2Proof.Machine.execDecAlphanum len s
  | .decAlphasym len => Sys2Proof.Machine.execDecAlphasym len s
  | .decEuropean len => Sys2Proof.Machine.execDecEuropean len s
  | .decLatin1 len => Sys2Proof.Machine.execDecLatin1 len s
  | .decBadId11 len => Sys2Proof.Machine.execDecBadId11 len s
  | .decBadId12to15 id len => Sys2Proof.Machine.execDecBadId12to15 id len s

end Sys2Proof.Machine
end

