-- ==== Sys2Proof/Machine/Fsm.lean ====
section
/-! DEFINITION. The engine at the FSM grain: one arrow of the tables of spec 41 R154 and 43 R214 (D28). The result of a
whole command at this grain is that of its meaning (41 R155, 43 R214). -/

namespace Sys2Proof.Machine

/-- The index `i` after the last group in DEC_UNPACK: -1 in six bits (log 9). -/
def indexDone : BitVec 6 := 63#6

/-- One character appended to ACC: shift and OR, without the shift before the first character (41 R150, R154). -/
def appendCode (s : State) (a : Alphabet) (code : Nat) : State :=
  { s with
    acc := brOrLow (if s.i = 0 then s.acc else brShiftLeft s.cfg.p s.acc (alphabetStep a)) code (alphabetMask a)
    i := s.i + 1 }

/-- ENC_GATE (41 R154). -/
def arrowEncGate (s : State) : State :=
  if passesGate s.cfg (stringLength s) = false then finish .nofit s
  else if stringLength s = 0 then { s with fsm := .commit, acc := brZero, hdrNext := headerOf .utf8 0 }
  else if stringLength s ≤ maxBytes s.cfg then { s with fsm := .encLatin1, i := 0, acc := brZero }
  else { s with fsm := .encClassify, i := 0, cand := initCand s.cfg (stringLength s) }

/-- ENC_LATIN1 (41 R154). -/
def arrowEncLatin1 (s : State) : State :=
  if s.i.toNat = stringLength s then
    { s with fsm := .commit, hdrNext := headerOf .latin1 (stringLength s) }
  else if (charAt s s.i.toNat).toNat ≤ 0xFF then appendCode s .latin1 (charAt s s.i.toNat).toNat
  else { s with fsm := .encUtf8, cand := 0 }

/-- BYTES and nbytes from a byte string: only the first 63 bytes are stored (10 R41). The loop of 44 R232 writes the
entries below nbytes and defines no others. DESIGN CHOICE (log 21): those keep what they held. -/
def storeBytes (bs : List Byte) (s : State) : State :=
  { s with bytes := vectorOf 63 fun k => bs.getD k (s.bytes.getD k 0), nbytes := BitVec.ofNat 8 bs.length }

/-- ENC_UTF8 (41 R154): the serialiser runs in one arrow. For an unpaired surrogate 44 R232 gives BYTES and nbytes no
value. DESIGN CHOICE (log 21): both keep what they held. -/
def arrowEncUtf8 (s : State) : State :=
  match utf8Serialise (stringUnits s) with
  | none => raiseFatal .errBadUtf16 s
  | some bs =>
    if bs.length ≤ min (maxBytes s.cfg) 63 then
      { storeBytes bs s with
        fsm := .commit, acc := packBytes s.cfg bs, hdrNext := headerOf .utf8 bs.length }
    else finish .nofit (storeBytes bs s)

/-- ENC_CLASSIFY (41 R154). -/
def arrowEncClassify (s : State) : State :=
  if s.i.toNat = stringLength s ∨ s.cand = 0 then { s with fsm := .encTry, tryid := 1 }
  else
    let cl := classify (charAt s s.i.toNat)
    { s with cls := s.cls.setIfInBounds s.i.toNat cl, cand := s.cand &&& keepMask cl, i := s.i + 1 }

/-- ENC_TRY (41 R154): `tryid` above 9 ends the command. -/
def arrowEncTry (s : State) : State :=
  if 9 < s.tryid.toNat then finish .nofit s
  else
    match alphabetOfId s.tryid.toNat with
    | some a =>
      if candHas s.cand a = true ∧ stringLength s ≤ maxLength s.cfg a then
        { s with fsm := .encPack, i := 0, acc := brZero }
      else { s with tryid := s.tryid + 1 }
    | none => { s with tryid := s.tryid + 1 }

/-- ENC_PACK (41 R154) for the alphabet being tried. -/
def arrowEncPack (s : State) : State :=
  match alphabetOfId s.tryid.toNat with
  | none => { s with fsm := .encTry, tryid := s.tryid + 1 }
  | some a =>
    if s.i.toNat = stringLength s then
      { s with fsm := .commit, hdrNext := headerOf a (stringLength s) }
    else
      match lutEnc s.cfg a (s.cls.getD s.i.toNat { kind := .other, val := 0 }) with
      | .ok code => appendCode s a code
      | .unres => { s with fsm := .encTry, tryid := s.tryid + 1 }
      | .miss => raiseFatal .errContract s

/-- DEC_CHECK (43 R214). -/
def arrowDecCheck (s : State) : State :=
  if hdrTag s.hdr ≠ 0b10 then finish .foreign s
  else if brReadAll (payloadValue s) (2 ^ s.cfg.p - 1) = 0 then { s with fsm := .commit, nNext := 0 }
  else
    match alphabetOfId (hdrId s.hdr).toNat with
    | none => raiseFatal .errBadId s
    | some a =>
      if maxLength s.cfg a < (hdrLen s.hdr).toNat then raiseFatal .errBadLength s
      else { s with fsm := .decUnpack, acc := payloadValue s, i := hdrLen s.hdr - 1 }

/-- One character written to the pending output, and the next group exposed (43 R214). -/
def emitUnit (s : State) (a : Alphabet) (u : CodeUnit) : State :=
  { s with
    outNext := s.outNext.setIfInBounds s.i.toNat u
    acc := brShiftRight s.acc (alphabetStep a)
    i := s.i - 1 }

/-- One group of DEC_UNPACK (43 R214). -/
def arrowUnpackGroup (s : State) (a : Alphabet) : State :=
  let g := brReadLowByte s.acc (alphabetMask a)
  match a with
  | .utf8 =>
    { s with
      bytes := s.bytes.setIfInBounds s.i.toNat (BitVec.ofNat 8 g)
      acc := brShiftRight s.acc (alphabetStep a)
      i := s.i - 1 }
  | .latin1 => emitUnit s a (BitVec.ofNat 16 g)
  | .numerical | .date | .upper | .lower | .email | .emailsym | .alphanum | .alphasym | .european =>
    match lutDec s.cfg a g with
    | some u => emitUnit s a u
    | none => raiseFatal .errBadCode s

/-- The byte unpacker is done: BYTES holds the LEN bytes of an id 0 record, and nbytes their count (10 R41, 43 R209).
DEDUCED (log 22): the count is LEN. DESIGN CHOICE (log 22): it is written with the last arrow of DEC_UNPACK. -/
def countBytes (s : State) : State := { s with nbytes := (hdrLen s.hdr).setWidth 8 }

/-- DEC_UNPACK (43 R214). DEC_CHECK lets no undefined id pass; for one, the arrow raises the same fault. -/
def arrowDecUnpack (s : State) : State :=
  match alphabetOfId (hdrId s.hdr).toNat with
  | none => raiseFatal .errBadId s
  | some a =>
    if s.i = indexDone then
      if a = .utf8 then { countBytes s with fsm := .decUtf8 }
      else { s with fsm := .commit, nNext := (hdrLen s.hdr).setWidth 7 }
    else arrowUnpackGroup s a

/-- DEC_UTF8 (43 R214): the deserialiser runs in one arrow. DESIGN CHOICE (log 21): the entries of
`outNext` past the units it appends keep what they held. -/
def arrowDecUtf8 (s : State) : State :=
  match utf8Deserialise (s.bytes.toList.take (hdrLen s.hdr).toNat) with
  | none => raiseFatal .errBadUtf8 s
  | some us =>
    { s with
      fsm := .commit, nNext := BitVec.ofNat 7 us.length, outNext := vectorOf 63 fun k => us.getD k (s.outNext.getD k 0) }

/-- COMMIT: of an ENCODE 42 R183, of a DECODE 43 R210, told apart by the latched OP (10 R42). -/
def arrowCommit (s : State) : State :=
  if s.op = 1 then commitEncode s.hdrNext s.acc s
  else commitDecode (s.outNext.toList.take s.nNext.toNat) s

/-- One engine step at the FSM grain. In IDLE and FAULT the engine takes none (60 R255, 70 R288 b). -/
def arrow (s : State) : State :=
  match s.fsm with
  | .idle => s
  | .fault => s
  | .encGate => arrowEncGate s
  | .encLatin1 => arrowEncLatin1 s
  | .encUtf8 => arrowEncUtf8 s
  | .encClassify => arrowEncClassify s
  | .encTry => arrowEncTry s
  | .encPack => arrowEncPack s
  | .decCheck => arrowDecCheck s
  | .decUnpack => arrowDecUnpack s
  | .decUtf8 => arrowDecUtf8 s
  | .badCmd => raiseFatal .errBadCmd s
  | .commit => arrowCommit s

/-- `n` arrows. -/
def arrows : Nat → State → State
  | 0, s => s
  | n + 1, s => arrows n (arrow s)

end Sys2Proof.Machine
end

