-- ==== Sys2Proof/Machine/Run.lean ====
section
/-! DEFINITION. The two kinds of atomic step (spec 70 R288), host step and engine step, and the platform's reset. The
events of the queue say which comes next (log 4). -/

namespace Sys2Proof.Machine

/-- A host write to an aligned offset (10 R21, 60 R255, R258). While BUSY it is dropped, whatever the offset. A write
to CMD is ignored in FAULT; otherwise NOP runs at once and any other OP starts its command. -/
def hostWrite (r : Reg) (v : Word) (s : State) : Host.Outcome State Fault Refusal :=
  if s.status.busy then .next (dropWrite s)
  else if r = .cmd then
    if s.status.fault then .next s
    else if field v 0 2 = 0 then exec (decodeCmd v) s
    else .next (startCommand (field v 0 2) s)
  else .next (writeReg s r v)

/-- A host read of an aligned offset: the value joins the host's record, and the block does not change (20 R65). -/
def hostRead (r : Reg) (s : State) : State := { s with observed := readReg s r :: s.observed }

/-- A system address as an offset of the register space (20 R60, R75), which only 4-byte accesses to multiples of 4
reach (20 R63, R64). -/
def portOffset (c : Config) (addr size : Nat) : Host.Outcome Nat Fault Refusal :=
  if addr < c.base ∨ c.base + 4096 ≤ addr then .fault (.outsideRegisterSpace addr)
  else if size ≠ 4 then .refused (.accessSize size)
  else if (addr - c.base) % 4 ≠ 0 then .refused (.misaligned (addr - c.base))
  else .next (addr - c.base)

/-- The offset an access reaches, or the name under which it stops (20 R60, R64). -/
def accessOffset (c : Config) (a : Access) : Host.Outcome Nat Fault Refusal :=
  match a with
  | .read addr size => portOffset c addr size
  | .write addr size _ => portOffset c addr size

/-- What an access to an offset does. -/
def serveAccess (a : Access) (off : Nat) (s : State) : Host.Outcome State Fault Refusal :=
  match a with
  | .read _ _ => .next (hostRead (regAt off) s)
  | .write _ _ v => hostWrite (regAt off) v s

/-- One host step (70 R288 a). An access that is not a 32-bit one to a word-aligned offset has no step in any state
(20 R64, 60 R258 d). While reset is asserted no other access is accepted (70 R280); DESIGN CHOICE (log 7): it is lost. -/
def hostStep (a : Access) (s : State) : Host.Outcome State Fault Refusal :=
  match accessOffset s.cfg a with
  | .next off => if s.inReset then .next s else serveAccess a off s
  | .fault f => .fault f
  | .refused r => .refused r

/-- One engine step at the reference grain (70 R287): at the start of a command, the whole command; in the middle of
one that FSM steps began, the next arrow. The engine steps only while BUSY (70 R288 b). -/
def engineStep (s : State) : Host.Outcome State Fault Refusal :=
  if s.status.busy then
    match s.fsm with
    | .encGate => exec .encode s
    | .decCheck => exec .decode s
    | .badCmd => exec .reservedCmd s
    | .idle | .fault | .encLatin1 | .encUtf8 | .encClassify | .encTry | .encPack | .decUnpack | .decUtf8 | .commit =>
      .next (arrow s)
  else .next s

/-- One engine step at the FSM grain (D28). -/
def tickStep (s : State) : State := if s.status.busy then arrow s else s

/-- One poll of the host's loop WAIT (30 R91): a read of STATUS, and another turn of the loop while BUSY, after one
engine step (70 R288 fairness; log 17). -/
def waitStep (s : State) : State :=
  if s.status.busy then { hostRead .status s with bus := .engine :: .wait :: s.bus } else hostRead .status s

/-- What one event does, the event having left the queue. While reset is asserted the block holds its reset values and
accepts no access (70 R280; log 7). -/
def eventStep (e : Event) (s : State) : Host.Outcome State Fault Refusal :=
  match e with
  | .resetAssert => .next (assertReset s)
  | .resetRelease => .next { s with inReset := false }
  | .host a => hostStep a s
  | .wait => if s.inReset then .next s else .next (waitStep s)
  | .engine => if s.inReset then .next s else engineStep s
  | .tick => if s.inReset then .next s else .next (tickStep s)

/-- One step: the first event of the queue, or, with none pending, the engine's turn (70 R288 fairness; log 4). -/
def runStep (s : State) : Host.Outcome State Fault Refusal :=
  match s.bus with
  | [] => if s.inReset then .next s else engineStep s
  | e :: rest => eventStep e { s with bus := rest }

/-- The state whose next step fetches and runs the instruction of a table word (log 13): a started command for a
non-zero OP, a pending host write for NOP, a started DECODE with the header in HDR for a header word. -/
def placeInstr (s : State) (f : Format) (w : Word) : State :=
  let idle : State :=
    { s with inReset := false, fsm := .idle, status := { s.status with busy := false, fault := false } }
  match f with
  | .cmd =>
    if field w 0 2 = 0 then { idle with bus := .host (.write idle.cfg.base 4 w) :: s.bus }
    else { startCommand (field w 0 2) idle with bus := .engine :: s.bus }
  | .hdr => { startCommand 2 { idle with hdr := field w 0 12 } with bus := .engine :: s.bus }

end Sys2Proof.Machine
end

