-- ==== Sys2Proof/Machine/Step.lean ====
section
/-! DEFINITION. The step of the machine, and where a step fetches its next instruction. -/

namespace Sys2Proof.Machine

/-- One step of the block and its surroundings (spec 70 R288). -/
def step (s : State) : Host.Outcome State Fault Refusal := runStep s

/-- `s` with a table word's instruction placed where `step` fetches next (log 13). -/
def State.withFetchWord (s : State) (nbits w : Nat) : State :=
  match formatOfTableBits nbits with
  | some f => placeInstr s f (BitVec.ofNat 32 w)
  | none => s

end Sys2Proof.Machine
end

