-- ==== Sys2Proof/Machine/Script.lean ====
section
/-! DEFINITION. The host script of spec 30 R90 and R91: statements, and the bus transactions each expands to. -/

namespace Sys2Proof.Machine

/-- The statements of a host script: the base statements (30 R90) and the pseudo-statements (30 R91). A register of
`wr`, `rd` and `rdx` is one of the named ones, with its index in range. -/
inductive Stmt where
  | wr (r : Reg) (v : Word)
  | rd (r : Reg)
  | rdx (r : Reg) (v : Word)
  | nop
  | encode
  | decode
  | loadStr (text : List CodeUnit)
  | loadLen (n : Word)
  | loadRec (hdr : Word) (payload : Nat)
  | wait
  deriving DecidableEq, Repr

/-- `MemWrite(off(reg), 4, v)` (30 R90). -/
def writeEvent (c : Config) (r : Reg) (v : Word) : Event := .host (.write (c.base + regOffset r) 4 v)

/-- `MemRead(off(reg), 4)` (30 R90). -/
def readEvent (c : Config) (r : Reg) : Event := .host (.read (c.base + regOffset r) 4)

/-- The CHAR_IN writes of LOADSTR from entry `k` on (30 R91). The spec gives a text no greatest length and names only
CHAR_IN0 to CHAR_IN63 (30 R90). DESIGN CHOICE (log 23): unit `k` of a longer text is written at offset 0x100 + 4k all
the same, where the host port treats it as any write to that offset. -/
def loadUnits (c : Config) : Nat → List CodeUnit → List Event
  | _, [] => []
  | k, u :: us => writeEvent c (.charIn k) (u.setWidth 32) :: loadUnits c (k + 1) us

/-- The transactions of a statement (30 R90, R91). -/
def expandStmt (c : Config) : Stmt → List Event
  | .wr r v => [writeEvent c r v]
  | .rd r => [readEvent c r]
  | .rdx r _ => [readEvent c r]
  | .nop => [writeEvent c .cmd 0]
  | .encode => [writeEvent c .cmd 1]
  | .decode => [writeEvent c .cmd 2]
  | .loadStr us => loadUnits c 0 us ++ [writeEvent c .inLen (BitVec.ofNat 32 us.length)]
  | .loadLen n => [writeEvent c .inLen n]
  | .loadRec h a =>
    writeEvent c .hdr h
      :: (List.range (payloadWordCount c)).map fun k => writeEvent c (.payload k) (BitVec.ofNat 32 (a >>> (32 * k)))
  | .wait => [.wait]

/-- The transactions of a script. -/
def expandScript (c : Config) (l : List Stmt) : List Event := (l.map (expandStmt c)).flatten

/-- The reference scheduling of a script (spec 95 section 3, 70 R288): the engine has its turn right after every CMD
write. Any other interleaving is a queue with its engine events elsewhere. -/
def referenceSchedule (c : Config) : List Event → List Event
  | [] => []
  | e :: es =>
    match e with
    | .host (.write addr _ _) =>
      if addr = c.base then e :: .engine :: referenceSchedule c es else e :: referenceSchedule c es
    | .host (.read _ _) | .wait | .engine | .tick | .resetAssert | .resetRelease => e :: referenceSchedule c es

/-- `s` with a script about to run under the reference scheduling: how a program comes to run from reset (log 13). -/
def State.withScript (s : State) (l : List Stmt) : State :=
  { s with bus := s.bus ++ referenceSchedule s.cfg (expandScript s.cfg l) }

end Sys2Proof.Machine
end

