-- ==== Sys2Proof/Safety.lean ====
section
/-! DEFINITION. What holds of every state the block can be in (spec 10, 60), in the terms statements use. -/

namespace Sys2Proof.Machine

/-- The row of spec 30 R85 that a header with tag 0b10 and a defined id dispatches to. -/
def rowOf : Alphabet → BitVec 6 → Instr
  | .utf8 => .decUtf8
  | .numerical => .decNumerical
  | .date => .decDate
  | .upper => .decUpper
  | .lower => .decLower
  | .email => .decEmail
  | .emailsym => .decEmailsym
  | .alphanum => .decAlphanum
  | .alphasym => .decAlphasym
  | .european => .decEuropean
  | .latin1 => .decLatin1

/-- Code group `k` of a payload of `n` groups of `w` bits: bits `[(n-1-k)*w + w-1 : (n-1-k)*w]` (30 R86). -/
def groupAt (w n payload k : Nat) : Nat := payload / 2 ^ ((n - 1 - k) * w) % 2 ^ w

/-- Whether the surrogate at position `k` of a string has no partner (44 R231). -/
def unpairedAt (us : List CodeUnit) (k : Nat) : Bool :=
  (isHighSurrogate (us.getD k 0) && !(isLowSurrogate (us.getD (k + 1) 0)))
    || (isLowSurrogate (us.getD k 0) && !(decide (0 < k) && isHighSurrogate (us.getD (k - 1) 0)))

/-- Whether alphabet `a` can hold every character of a string: its keep bit stands for each class, and no character is
one of its unresolved marks (41 R157). -/
def admits (c : Config) (a : Alphabet) (us : List CodeUnit) : Bool :=
  us.all fun u => candHas (keepMask (classify u)) a && decide (lutEnc c a (classify u) ≠ .unres)

/-- The code of a character under an alphabet, 0 where it has none. -/
def codeOf (c : Config) (a : Alphabet) (u : CodeUnit) : Nat :=
  match lutEnc c a (classify u) with
  | .ok code => code
  | .unres | .miss => 0

/-- What a register reads after a host has written `v` to it with BUSY = 0: its defined bits where the host may write
it, its old value where the host may not (10 R30, R31, R33, R34, R48). -/
def storedWord (s : State) (r : Reg) (v : Word) : Word :=
  match r with
  | .inLen => v &&& 0xFFFF#32
  | .hdr => v &&& 0xFFF#32
  | .charIn _ => v &&& 0xFFFF#32
  | .payload k => v &&& BitVec.ofNat 32 (2 ^ min 32 (s.cfg.p - 32 * k) - 1)
  | .cmd | .status | .config | .outLen | .charOut _ | .reserved => readReg s r

/-- Agreement on everything but the internal state that is dead when a command has ended: ACC, CAND, CLS, BYTES, nbytes,
i, tryid and the latches of log 8 (10 R45, log 11). -/
structure SameVisible (s t : State) : Prop where
  cfg : t.cfg = s.cfg
  status : t.status = s.status
  inLen : t.inLen = s.inLen
  hdr : t.hdr = s.hdr
  outLen : t.outLen = s.outLen
  payload : t.payload = s.payload
  charIn : t.charIn = s.charIn
  charOut : t.charOut = s.charOut
  fsm : t.fsm = s.fsm
  op : t.op = s.op
  inReset : t.inReset = s.inReset
  bus : t.bus = s.bus
  observed : t.observed = s.observed

/-- The RESULT codes that rules write (60 R250): 0x3..0x7 and 0xF are never written. -/
def resultLegal (r : BitVec 4) : Bool := decide (r.toNat ≤ 2 ∨ 8 ≤ r.toNat ∧ r.toNat ≤ 14)

/-- STATUS agrees with the engine state and with itself (10 R22 to R27, 60 R250, R251). -/
structure StatusCoherent (s : State) : Prop where
  busy_iff : s.status.busy = decide (s.fsm ≠ .idle ∧ s.fsm ≠ .fault)
  fault_iff : s.status.fault = decide (s.fsm = .fault)
  busy_clears : s.status.busy = true → s.status.done = false ∧ s.status.ok = false ∧ s.status.result = 0
  legal : resultLegal s.status.result = true
  ok_iff : s.status.ok = decide (s.status.done = true ∧ s.status.result = 0)
  fault_class : s.status.fault = decide (8 ≤ s.status.result.toNat)
  idle_done : s.status.busy = false → s.status.done = false → s.status.result = 0

/-- The latched OP is that of the running command (10 R21, R42). -/
def opMatchesFsm (s : State) : Bool :=
  match s.fsm with
  | .encGate | .encLatin1 | .encUtf8 | .encClassify | .encTry | .encPack => decide (s.op = 1)
  | .decCheck | .decUnpack | .decUtf8 => decide (s.op = 2)
  | .badCmd => decide (s.op = 3)
  | .commit => decide (s.op = 1 ∨ s.op = 2)
  | .idle | .fault => true

/-- Payload bits at or above P are 0 (10 R33) and ACC is below 2^P (10 R38). -/
structure WithinWidth (s : State) : Prop where
  payload : ∀ k < 16, (s.payload.getD k 0).toNat < 2 ^ min 32 (s.cfg.p - 32 * k)
  acc : s.acc < 2 ^ s.cfg.p

/-- OUT_LEN is at most 63, and the entries of CHAR_OUT from OUT_LEN on are 0 (10 R32, R35); so is the length waiting
to be committed. -/
structure OutputCoherent (s : State) : Prop where
  outLen : s.outLen.toNat ≤ 63
  nNext : s.nNext.toNat ≤ 63
  zeros : ∀ k, s.outLen.toNat ≤ k → k < 64 → s.charOut.getD k 0 = 0

/-- While reset is asserted every piece of the block's state holds its reset value (70 R280). -/
def HeldInReset (s : State) : Prop :=
  s.inReset = true → s = { State.resetWith s.cfg with inReset := true, bus := s.bus, observed := s.observed }

/-- The invariant of the machine. -/
structure Inv (s : State) : Prop where
  legal : Config.legal s.cfg = true
  status : StatusCoherent s
  op : opMatchesFsm s = true
  width : WithinWidth s
  output : OutputCoherent s
  held : HeldInReset s

end Sys2Proof.Machine
end

