-- ==== Sys2Proof/Certificates/Slice0/Obligations.lean ====
section
/-! DEFINITION. The statements about the model, one `def Obligations.<Name> : Prop` each. Each docstring names the rule
of spec/ it formalises. A next state is written out as an update of the state before, so that every field not named is
said to be unchanged; `SameVisible` compares all but the internal state that is dead at the end of a command (10 R45,
log 11); bytes of the register space are compared through `readByte`. -/

open Sys2Proof Sys2Proof.Machine

/-! ## Encodings -/

/-- Decode and encode agree on every well-formed instruction, with every operand at every value (30 R81 to R85). -/
def Obligations.EncodeThenDecodeIsIdentity : Prop :=
  ∀ i : Instr, i.wellFormed = true → Sys2Proof.decode (formatOf i) (Sys2Proof.encode i) = .ok i

/-- Every 12-bit header is the encoding of the row it dispatches to (30 R83, R85). -/
def Obligations.EveryHeaderEncodesItsRow : Prop :=
  ∀ h : BitVec 12,
    (decodeHdr h).wellFormed = true ∧ formatOf (decodeHdr h) = .hdr ∧ encodeWord (decodeHdr h) = h.setWidth 32

/-- The CMD opcode map on all words (30 R82). -/
def Obligations.CommandDecoderMatchesLowTwoBits : Prop :=
  ∀ v : Word,
    (v &&& 3#32 = 0#32 → decodeCmd v = .nop) ∧ (v &&& 3#32 = 1#32 → decodeCmd v = .encode) ∧
    (v &&& 3#32 = 2#32 → decodeCmd v = .decode) ∧ (v &&& 3#32 = 3#32 → decodeCmd v = .reservedCmd)

/-- The header dispatch map, field by field (30 R85). -/
def Obligations.HeaderFieldsSelectTheirRow : Prop :=
  ∀ (id : BitVec 4) (len : BitVec 6),
    decodeHdr (headerWord 0b00#2 id len) = .decForeign00 id len ∧
    decodeHdr (headerWord 0b01#2 id len) = .decForeign01 id len ∧
    decodeHdr (headerWord 0b11#2 id len) = .decForeign11 id len ∧
    (∀ a : Alphabet, decodeHdr (headerWord 0b10#2 (BitVec.ofNat 4 (alphabetId a)) len) = rowOf a len) ∧
    decodeHdr (headerWord 0b10#2 11#4 len) = .decBadId11 len ∧
    (12 ≤ id.toNat → decodeHdr (headerWord 0b10#2 id len) = .decBadId12to15 id len)

/-- Words written out from the tables of 30 R82, R83 and R85 decode to the instructions they stand for. -/
def Obligations.WrittenOutWordsDecode : Prop :=
  Sys2Proof.decode .cmd [0x01, 0x00, 0x00, 0x00] = .ok .encode ∧
  Sys2Proof.decode .cmd [0xFC, 0xFF, 0xFF, 0xFF] = .ok .nop ∧
  Sys2Proof.decode .hdr [0xCF, 0x08, 0x00, 0x00] = .ok (.decUpper 15) ∧
  Sys2Proof.decode .hdr [0x02, 0x08, 0x00, 0x00] = .ok (.decUtf8 2) ∧
  Sys2Proof.decode .hdr [0x45, 0x04, 0x00, 0x00] = .ok (.decForeign01 1 5) ∧
  Sys2Proof.decode .hdr [0xC1, 0x0A, 0x00, 0x00] = .ok (.decBadId11 1)

/-! ## The step, the host port and reset -/

/-- A step runs the decoded instruction: an engine turn at the start of a command runs the command that the latched OP
encodes, and at DEC_CHECK just as well the row that the bytes of HDR encode; the write of a NOP to CMD runs NOP
(10 R21, 70 R287, R288; 30 R85). The step adds that the event leaves the queue. -/
def Obligations.StepRunsTheFetchedInstruction : Prop :=
  (∀ (s : State) (rest : List Event) (i : Instr), s.bus = .engine :: rest → s.inReset = false →
    s.status.busy = true → opMatchesFsm s = true → (s.fsm = .encGate ∨ s.fsm = .decCheck ∨ s.fsm = .badCmd) →
    Sys2Proof.decode .cmd (bytesOfWord (s.op.setWidth 32)) = .ok i →
    step s = exec i { s with bus := rest }) ∧
  (∀ (s : State) (i : Instr), s.bus = [] → s.inReset = false → s.status.busy = true → opMatchesFsm s = true →
    (s.fsm = .encGate ∨ s.fsm = .decCheck ∨ s.fsm = .badCmd) →
    Sys2Proof.decode .cmd (bytesOfWord (s.op.setWidth 32)) = .ok i → step s = exec i s) ∧
  (∀ (s : State) (rest : List Event) (i : Instr), s.bus = .engine :: rest → s.inReset = false →
    s.status.busy = true → s.fsm = .decCheck →
    Sys2Proof.decode .hdr (bytesOfWord (s.hdr.setWidth 32)) = .ok i → step s = exec i { s with bus := rest }) ∧
  (∀ (s : State) (rest : List Event) (v : Word) (i : Instr), s.bus = .host (.write s.cfg.base 4 v) :: rest →
    s.inReset = false → s.status.busy = false → s.status.fault = false → v &&& 3#32 = 0#32 →
    Sys2Proof.decode .cmd (bytesOfWord v) = .ok i → step s = exec i { s with bus := rest })

/-- What a host write to CMD does, and what NOP does (10 R21, 42 R189). -/
def Obligations.CommandWriteStartsItsCommand : Prop :=
  (∀ s : State, exec .nop s = .next s ∧ readReg s .cmd = 0#32) ∧
  ∀ (s : State) (rest : List Event) (v : Word), s.bus = .host (.write s.cfg.base 4 v) :: rest → s.inReset = false →
    (s.status.busy = true → step s = .next { s with bus := rest, status := { s.status with ovr := true } }) ∧
    (s.status.busy = false → s.status.fault = true → step s = .next { s with bus := rest }) ∧
    (s.status.busy = false → s.status.fault = false → v.extractLsb' 0 2 = 0#2 →
      step s = .next { s with bus := rest }) ∧
    (s.status.busy = false → s.status.fault = false → v.extractLsb' 0 2 ≠ 0#2 →
      step s = .next
        { s with
          bus := rest
          op := v.extractLsb' 0 2
          fsm := if v.extractLsb' 0 2 = 1#2 then .encGate else if v.extractLsb' 0 2 = 2#2 then .decCheck else .badCmd
          status :=
            { busy := true, done := false, ok := false, fault := s.status.fault, result := 0, ovr := false } })

/-- The reserved command: its start, its fatal end (42 R190). -/
def Obligations.ReservedCommandHaltsTheEngine : Prop :=
  (∀ s : State, exec .reservedCmd s = .next
    { s with
      fsm := .fault
      status := { busy := false, done := true, ok := false, fault := true, result := 0xE, ovr := s.status.ovr } }) ∧
  ∀ (s : State) (rest : List Event) (v : Word), s.bus = .host (.write s.cfg.base 4 v) :: .engine :: rest →
    s.inReset = false → s.status.busy = false → s.status.fault = false → v.extractLsb' 0 2 = 3#2 →
    ∃ t, step s = .next t ∧
      t = { s with
            bus := .engine :: rest
            op := 3
            fsm := .badCmd
            status := { busy := true, done := false, ok := false, fault := false, result := 0, ovr := false } } ∧
      step t = .next
        { s with
          bus := rest
          op := 3
          fsm := .fault
          status := { busy := false, done := true, ok := false, fault := true, result := 0xE, ovr := false } }

/-- Host-protocol errors (60 R258, 20 R64): a write while BUSY is dropped and sets OVR, a read while BUSY returns the
current value, a write to a read-only register, a reserved offset or a reserved bit does nothing, and an access that is
not four bytes at a multiple of four is refused, also while reset is asserted. -/
def Obligations.HostProtocolErrors : Prop :=
  (∀ (s : State) (rest : List Event) (off : Nat) (v : Word), off < 4096 → off % 4 = 0 → s.inReset = false →
    s.bus = .host (.write (s.cfg.base + off) 4 v) :: rest → s.status.busy = true →
    step s = .next { s with bus := rest, status := { s.status with ovr := true } }) ∧
  (∀ (s : State) (rest : List Event) (off : Nat), off < 4096 → off % 4 = 0 → s.inReset = false →
    s.bus = .host (.read (s.cfg.base + off) 4) :: rest → s.status.busy = true →
    step s = .next { s with bus := rest, observed := readReg s (regAt off) :: s.observed }) ∧
  (∀ (s : State) (rest : List Event) (off : Nat) (v : Word), off < 4096 → off % 4 = 0 → s.inReset = false →
    s.bus = .host (.write (s.cfg.base + off) 4 v) :: rest → s.status.busy = false →
    (regAt off = .status ∨ regAt off = .config ∨ regAt off = .outLen ∨ (∃ k, regAt off = .charOut k)
      ∨ regAt off = .reserved) →
    step s = .next { s with bus := rest }) ∧
  (∀ (s : State) (v : Word) (k : Nat), writeReg s .hdr v = writeReg s .hdr (v &&& 0xFFF#32) ∧
    writeReg s .inLen v = writeReg s .inLen (v &&& 0xFFFF#32) ∧
    writeReg s (.charIn k) v = writeReg s (.charIn k) (v &&& 0xFFFF#32) ∧
    writeReg s (.payload k) v = writeReg s (.payload k) (v &&& payloadMask s.cfg k) ∧
    hostWrite .cmd v s = hostWrite .cmd (v &&& 3#32) s) ∧
  (∀ (s : State) (rest : List Event) (off size : Nat) (v : Word), off < 4096 → (size ≠ 4 ∨ off % 4 ≠ 0) →
    (s.bus = .host (.write (s.cfg.base + off) size v) :: rest ∨ s.bus = .host (.read (s.cfg.base + off) size) :: rest) →
    ∃ r, step s = .refused r)

/-- Which register stands at which offset (20 R61, R62). -/
def Obligations.RegisterMap : Prop :=
  regAt 0x000 = .cmd ∧ regAt 0x004 = .status ∧ regAt 0x008 = .config ∧ regAt 0x00C = .inLen ∧ regAt 0x010 = .hdr ∧
  regAt 0x014 = .outLen ∧ (∀ k < 16, regAt (0x040 + 4 * k) = .payload k) ∧
  (∀ k < 64, regAt (0x100 + 4 * k) = .charIn k) ∧ (∀ k < 64, regAt (0x200 + 4 * k) = .charOut k) ∧
  (∀ off < 4096, off % 4 = 0 →
    (0x018 ≤ off ∧ off < 0x040 ∨ 0x080 ≤ off ∧ off < 0x100 ∨ 0x300 ≤ off) → regAt off = .reserved)

/-- A host read of any offset returns the register there and changes nothing of the block (20 R65); and what each
register of the map reads as: its fields in their places, its reserved bits 0, CMD and the reserved offsets 0 (10 R21,
R22, R29 to R35, R48; 20 R62). -/
def Obligations.HostReadChangesNoRegister : Prop :=
  (∀ (s : State) (rest : List Event) (off : Nat), off < 4096 → off % 4 = 0 → s.inReset = false →
    s.bus = .host (.read (s.cfg.base + off) 4) :: rest →
    step s = .next { s with bus := rest, observed := readReg s (regAt off) :: s.observed }) ∧
  ∀ s : State,
    readReg s .cmd = 0#32 ∧ readReg s .reserved = 0#32 ∧
    (readReg s .status).getLsbD 0 = s.status.busy ∧ (readReg s .status).getLsbD 1 = s.status.done ∧
    (readReg s .status).getLsbD 2 = s.status.ok ∧ (readReg s .status).getLsbD 3 = s.status.fault ∧
    (readReg s .status).extractLsb' 4 4 = s.status.result ∧ (readReg s .status).getLsbD 8 = s.status.ovr ∧
    (readReg s .status).extractLsb' 9 23 = 0#23 ∧
    (s.cfg.p < 1024 → readReg s .config = BitVec.ofNat 32 s.cfg.p) ∧
    readReg s .inLen = s.inLen.setWidth 32 ∧ readReg s .hdr = s.hdr.setWidth 32 ∧
    readReg s .outLen = s.outLen.setWidth 32 ∧
    (∀ k < 16, readReg s (.payload k) = s.payload.getD k 0) ∧
    (∀ k < 64, readReg s (.charIn k) = (s.charIn.getD k 0).setWidth 32) ∧
    (∀ k < 64, readReg s (.charOut k) = (s.charOut.getD k 0).setWidth 32)

/-- A host write while BUSY = 0 to a register other than CMD: what the register reads afterwards, and that every other
register and byte of the register space reads as before (10 R30, R31, R33, R34, R48). -/
def Obligations.HostWriteStoresOneRegister : Prop :=
  ∀ (s : State) (rest : List Event) (off : Nat) (v : Word), off < 4096 → off % 4 = 0 → off ≠ 0 → s.inReset = false →
    s.bus = .host (.write (s.cfg.base + off) 4 v) :: rest → s.status.busy = false →
    ∃ t, step s = .next t ∧
      readReg t (regAt off) = storedWord s (regAt off) v ∧
      (∀ a < 4096, a / 4 ≠ off / 4 → readByte t a = readByte s a) ∧
      t.status = s.status ∧ t.fsm = s.fsm ∧ t.op = s.op ∧ t.acc = s.acc ∧ t.cand = s.cand ∧ t.cls = s.cls ∧
      t.bytes = s.bytes ∧ t.nbytes = s.nbytes ∧ t.i = s.i ∧ t.tryid = s.tryid ∧ t.cfg = s.cfg

/-- The FAULT state (60 R255, R261): what each kind of event does there, and that only reset leaves it. -/
def Obligations.FaultStateIsLeftOnlyByReset : Prop :=
  ∀ s : State, s.fsm = .fault → s.status.fault = true → s.status.busy = false →
    (∀ t, step s = .next t → (∃ rest, s.bus = .resetAssert :: rest) ∨ (t.fsm = .fault ∧ t.status = s.status)) ∧
    (s.inReset = false →
      (∀ rest v, s.bus = .host (.write s.cfg.base 4 v) :: rest → step s = .next { s with bus := rest }) ∧
      (∀ rest off v, off < 4096 → off % 4 = 0 → off ≠ 0 → s.bus = .host (.write (s.cfg.base + off) 4 v) :: rest →
        step s = .next (writeReg { s with bus := rest } (regAt off) v)) ∧
      (∀ rest off, off < 4096 → off % 4 = 0 → s.bus = .host (.read (s.cfg.base + off) 4) :: rest →
        step s = .next { s with bus := rest, observed := readReg s (regAt off) :: s.observed }) ∧
      (∀ rest, s.bus = .engine :: rest ∨ s.bus = .tick :: rest → step s = .next { s with bus := rest }) ∧
      (s.bus = [] → step s = .next s))

/-- The reset value of every piece of state the spec lists (10 R46). -/
def Obligations.ResetTable : Prop :=
  ∀ c : Config, c.p < 1024 →
    let s := State.resetWith c
    readReg s .status = 0#32 ∧ readReg s .config = BitVec.ofNat 32 c.p ∧ s.inLen = 0 ∧ s.hdr = 0 ∧ s.outLen = 0 ∧
    (∀ k < 16, s.payload.getD k 1 = 0) ∧ (∀ k < 64, s.charIn.getD k 1 = 0) ∧ (∀ k < 64, s.charOut.getD k 1 = 0) ∧
    s.fsm = .idle ∧ s.op = 0 ∧ s.acc = 0 ∧ s.cand = 0 ∧
    (∀ k < 63, (s.cls.getD k { kind := .other, val := 1 }).val = 0) ∧ (∀ k < 63, s.bytes.getD k 1 = 0) ∧
    s.nbytes = 0 ∧ s.i = 0 ∧ s.tryid = 0

/-- Asserting reset, in any state, also in the middle of a command and in FAULT, gives every register its reset value
and keeps the parameters (70 R280, R281); while it is asserted nothing changes. That a well-formed
access made meanwhile is lost is the model's choice (log 7). -/
def Obligations.AssertedResetRestoresEverything : Prop :=
  (∀ (s : State) (rest : List Event), s.bus = .resetAssert :: rest →
    step s = .next { State.resetWith s.cfg with inReset := true, bus := rest, observed := s.observed }) ∧
  (∀ (s : State) (rest : List Event), s.inReset = true →
    (s.bus = .wait :: rest ∨ s.bus = .engine :: rest ∨ s.bus = .tick :: rest) → step s = .next { s with bus := rest }) ∧
  (∀ (s : State) (rest : List Event) (off : Nat) (v : Word), s.inReset = true → off < 4096 → off % 4 = 0 →
    (s.bus = .host (.write (s.cfg.base + off) 4 v) :: rest ∨ s.bus = .host (.read (s.cfg.base + off) 4) :: rest) →
    step s = .next { s with bus := rest }) ∧
  (∀ s t : State, s.inReset = true → step s = .next t → s.bus.head? ≠ some .resetAssert →
    s.bus.head? ≠ some .resetRelease → t = { s with bus := s.bus.tail }) ∧
  (∀ (s : State) (rest : List Event), s.bus = .resetRelease :: rest →
    step s = .next { s with bus := rest, inReset := false })

/-- The first command after reset (70 R283, R282): ENCODE commits the empty record, DECODE finds a foreign tag. The
placement at address 0 and the queue of events are the model's choices (log 3, log 4). -/
def Obligations.FirstCommandAfterReset : Prop :=
  readReg State.reset .status = 0#32 ∧ readReg State.reset .config = 112#32 ∧
  (∃ t, Sys2Proof.core.run 2 { State.reset with bus := [.host (.write 0 4 1), .engine] } = .next t ∧
    readReg t .status = 0x006#32 ∧ readReg t .hdr = 0x800#32 ∧ ∀ k < 16, readReg t (.payload k) = 0#32) ∧
  (∃ t, Sys2Proof.core.run 2 { State.reset with bus := [.host (.write 0 4 2), .engine] } = .next t ∧
    readReg t .status = 0x022#32)

/-- The invariant holds after reset. -/
def Obligations.ResetSatisfiesTheInvariant : Prop := Inv State.reset

/-- Every step keeps the invariant: STATUS agrees with the engine state and holds only codes that rules write, the
latched OP is the running command's, the payload and ACC stay below 2^P, OUT_LEN stays below 64 with zeros after the
string in CHAR_OUT, and reset holds the reset values (10 R22 to R27, R33, R35, R38, R42; 60 R250, R251; 70 R280). -/
def Obligations.StepKeepsTheInvariant : Prop :=
  ∀ s t : State, Inv s → step s = .next t → Inv t

/-- No step, reset included, changes the synthesis parameters (10 R20, 20 R73, 70 R280). -/
def Obligations.StepKeepsTheParameters : Prop :=
  ∀ s t : State, step s = .next t → t.cfg = s.cfg

/-! ## The ends of a command -/

/-- `finish(r)` for a normal code, the two commits that end in it, and `raise Fatal(c)` (60 R252, R254). -/
def Obligations.FinishAndFatalWriteStatus : Prop :=
  ∀ s : State,
    finish .success s = { s with fsm := .idle, status := { busy := false, done := true, ok := true, fault := s.status.fault, result := 0x0, ovr := s.status.ovr } } ∧
    finish .nofit s = { s with fsm := .idle, status := { busy := false, done := true, ok := false, fault := s.status.fault, result := 0x1, ovr := s.status.ovr } } ∧
    finish .foreign s = { s with fsm := .idle, status := { busy := false, done := true, ok := false, fault := s.status.fault, result := 0x2, ovr := s.status.ovr } } ∧
    (∀ h a, commitEncode h a s = finish .success { s with hdr := h, payload := payloadWords a }) ∧
    (∀ us, commitDecode us s = finish .success
      { s with outLen := BitVec.ofNat 7 us.length, charOut := vectorOf 64 fun k => us.getD k 0 }) ∧
    ∀ c : ResultCode,
      raiseFatal c s = { s with fsm := .fault, status := { busy := false, done := true, ok := false, fault := true, result := resultBits c, ovr := s.status.ovr } }

/-- The STATUS word after each result, with OVR = 0 (60 R251), and while BUSY. -/
def Obligations.StatusWordAfterEachResult : Prop :=
  ∀ st : Status, st.ovr = false → st.fault = false →
    statusWord (statusFinished .success st) = 0x006#32 ∧ statusWord (statusFinished .nofit st) = 0x012#32 ∧
    statusWord (statusFinished .foreign st) = 0x022#32 ∧ statusWord (statusFatal .errContract st) = 0x08A#32 ∧
    statusWord (statusFatal .errBadId st) = 0x09A#32 ∧ statusWord (statusFatal .errBadUtf16 st) = 0x0AA#32 ∧
    statusWord (statusFatal .errBadUtf8 st) = 0x0BA#32 ∧ statusWord (statusFatal .errBadCode st) = 0x0CA#32 ∧
    statusWord (statusFatal .errBadLength st) = 0x0DA#32 ∧ statusWord (statusFatal .errBadCmd st) = 0x0EA#32 ∧
    statusWord (statusStarted st) = 0x001#32

/-! ## Alphabet table and bit register -/

/-- The reference parameters meet every constraint of 40 R118 and 00 R8. -/
def Obligations.ReferenceParametersAreLegal : Prop := Config.legal referenceConfig = true

/-- The six classes as sets of code units, independent of the order of the classifier's tests (40 R101, R102). -/
def Obligations.ClassesAreDisjointSets : Prop :=
  ∀ u : CodeUnit,
    ((classify u).kind = .punct ↔ u ∈ marks) ∧
    ((classify u).kind = .upper ↔ 0x41 ≤ u.toNat ∧ u.toNat ≤ 0x5A) ∧
    ((classify u).kind = .lower ↔ 0x61 ≤ u.toNat ∧ u.toNat ≤ 0x7A) ∧
    ((classify u).kind = .digit ↔ 0x30 ≤ u.toNat ∧ u.toNat ≤ 0x39) ∧
    ((classify u).kind = .accent ↔ 0xC0 ≤ u.toNat ∧ u.toNat ≤ 0xFF ∧ u.toNat ≠ 0xD7 ∧ u.toNat ≠ 0xF7) ∧
    ((classify u).kind = .punct → marks[(classify u).val.toNat]? = some u) ∧
    ((classify u).kind ≠ .punct → (classify u).kind ≠ .other → (classify u).val.toNat = u.toNat) ∧
    ((classify u).kind = .other → (classify u).val = 0)

/-- The LUT of any legal tables. The round-trip law, both ways (40 R120); a character outside the grid answers MISS, one
in the grid answers UNRES where it is an unresolved mark, whose code then decodes to nothing, and its code otherwise
(40 R105, R106); every unresolved slot is such a mark (40 R116); a spare code decodes to nothing. -/
def Obligations.LutRoundTrip : Prop :=
  ∀ (c : Config) (a : Alphabet), Config.legal c = true → a ∈ restrictedAlphabets →
    (∀ (u : CodeUnit) (code : Nat), lutEnc c a (classify u) = .ok code →
      lutDec c a code = some u ∧ code < 2 ^ alphabetStep a) ∧
    (∀ (code : Nat) (u : CodeUnit), lutDec c a code = some u → lutEnc c a (classify u) = .ok code) ∧
    (∀ (code : Nat) (u : CodeUnit), (gridOf c a)[code]? = some (some (u.setWidth 8)) → u.toNat ≤ 0xFF →
      ((∃ k ∈ unresolved c a, marks[k]? = some u) →
        lutEnc c a (classify u) = .unres ∧ lutDec c a code = none) ∧
      ((¬∃ k ∈ unresolved c a, marks[k]? = some u) →
        lutEnc c a (classify u) = .ok code ∧ lutDec c a code = some u)) ∧
    (∀ k ∈ unresolved c a, ∃ (u : CodeUnit) (code : Nat), marks[k]? = some u ∧ u.toNat ≤ 0xFF ∧
      (gridOf c a)[code]? = some (some (u.setWidth 8)) ∧ lutEnc c a (classify u) = .unres ∧
      lutEnc c a { kind := .punct, val := BitVec.ofNat 8 k } = .unres ∧ lutDec c a code = none) ∧
    (∀ u : CodeUnit, (0xFF < u.toNat ∨ some (u.setWidth 8) ∉ gridOf c a) → lutEnc c a (classify u) = .miss) ∧
    (∀ code : Nat, (gridOf c a)[code]? = some none → lutDec c a code = none)

/-- The bit register's operations as arithmetic modulo 2^P (42 R172, R173, R175, R176). -/
def Obligations.BitRegisterArithmetic : Prop :=
  ∀ p acc : Nat, acc < 2 ^ p →
    (∀ n, brShiftLeft p acc n = acc * 2 ^ n % 2 ^ p) ∧ (∀ n, brShiftRight acc n = acc / 2 ^ n) ∧
    (∀ w ≤ 8, brReadLowByte acc (2 ^ w - 1) = acc % 2 ^ w) ∧ brReadAll acc (2 ^ p - 1) = acc

/-- The closed form of `pack` (42 R178), exact where the codes fit and modulo 2^P with masked codes in general. -/
def Obligations.PackClosedForm : Prop :=
  ∀ (p w : Nat) (cs : List Nat), 8 ≤ p → 4 ≤ w → w ≤ 8 →
    pack p w cs =
      (∑ j ∈ Finset.range cs.length, cs.getD j 0 % 2 ^ w * 2 ^ ((cs.length - 1 - j) * w)) % 2 ^ p ∧
    (cs.length * w ≤ p → (∀ c ∈ cs, c < 2 ^ w) →
      pack p w cs = ∑ j ∈ Finset.range cs.length, cs.getD j 0 * 2 ^ ((cs.length - 1 - j) * w) ∧
      pack p w cs < 2 ^ (cs.length * w))

/-- The payload marshaller: stored and loaded again, a P-bit integer is itself, and the words past the payload are 0
(42 R181). -/
def Obligations.PayloadMarshallingRoundTrip : Prop :=
  ∀ (s : State) (a : Nat), Config.legal s.cfg = true → a < 2 ^ s.cfg.p →
    payloadValue { s with payload := payloadWords a } = a ∧
    ∀ k < 16, payloadWordCount s.cfg ≤ k → (payloadWords a).getD k 1 = 0

/-! ## ENCODE -/

/-- The length gate (41 R140). -/
def Obligations.EncodeLengthGate : Prop :=
  ∀ s : State, (63 < s.inLen.toNat ∨ s.cfg.p / 4 < s.inLen.toNat) →
    exec .encode s = .next
      { s with
        fsm := .idle
        status := { busy := false, done := true, ok := false, fault := s.status.fault, result := 0x1, ovr := s.status.ovr } }

/-- The empty string (41 R141). -/
def Obligations.EncodeEmptyString : Prop :=
  ∀ s : State, s.inLen = 0 →
    ∃ u, exec .encode s = .next u ∧ SameVisible
      { s with
        hdr := 0x800
        payload := Vector.replicate 16 0
        fsm := .idle
        status := { busy := false, done := true, ok := true, fault := s.status.fault, result := 0x0, ovr := s.status.ovr } } u

/-- Latin-1 first (41 R142, 42 R186): a string of 1 to maxBytes units, all at most 0xFF, is packed as bytes, the first
most significant, whatever restricted alphabets could hold it. -/
def Obligations.EncodeLatin1WinsIfItFits : Prop :=
  ∀ s : State, Config.legal s.cfg = true → 1 ≤ s.inLen.toNat → s.inLen.toNat ≤ s.cfg.p / 8 →
    (∀ k < s.inLen.toNat, (charAt s k).toNat ≤ 0xFF) →
    ∃ u, exec .encode s = .next u ∧ SameVisible
      { s with
        hdr := BitVec.ofNat 12 (0x800 + 64 * 10 + s.inLen.toNat)
        payload := payloadWords
          (∑ k ∈ Finset.range s.inLen.toNat, (charAt s k).toNat * 2 ^ ((s.inLen.toNat - 1 - k) * 8))
        fsm := .idle
        status := { busy := false, done := true, ok := true, fault := s.status.fault, result := 0x0, ovr := s.status.ovr } } u

/-- The UTF-8 attempt (41 R143, R152, R153): a string of 1 to maxBytes units with one above 0xFF commits its UTF-8
bytes if they fit, ends in NOFIT if they do not, and raises ERR_BAD_UTF16 if it has none. -/
def Obligations.EncodeFallsBackToUtf8 : Prop :=
  ∀ s : State, Config.legal s.cfg = true → 1 ≤ s.inLen.toNat → s.inLen.toNat ≤ s.cfg.p / 8 →
    (∃ k < s.inLen.toNat, 0xFF < (charAt s k).toNat) →
    (utf8Serialise (stringUnits s) = none →
      ∃ u, exec .encode s = .next u ∧ SameVisible
        { s with
          fsm := .fault
          status := { busy := false, done := true, ok := false, fault := true, result := 0xA, ovr := s.status.ovr } } u) ∧
    (∀ bs, utf8Serialise (stringUnits s) = some bs → bs.length ≤ min (s.cfg.p / 8) 63 →
      ∃ u, exec .encode s = .next u ∧ SameVisible
        { s with
          hdr := BitVec.ofNat 12 (0x800 + bs.length)
          payload := payloadWords
            (∑ j ∈ Finset.range bs.length, (bs.getD j 0).toNat * 2 ^ ((bs.length - 1 - j) * 8))
          fsm := .idle
          status := { busy := false, done := true, ok := true, fault := s.status.fault, result := 0x0, ovr := s.status.ovr } } u) ∧
    (∀ bs, utf8Serialise (stringUnits s) = some bs → min (s.cfg.p / 8) 63 < bs.length →
      ∃ u, exec .encode s = .next u ∧ SameVisible
        { s with
          fsm := .idle
          status := { busy := false, done := true, ok := false, fault := s.status.fault, result := 0x1, ovr := s.status.ovr } } u)

/-- Alphabet minimality (41 R149, R153, R157; 42 R188): a string longer than maxBytes that passes the gate is packed
under the lowest restricted alphabet with capacity for it that admits each character, and ends in NOFIT when there is
none. -/
def Obligations.EncodePicksTheLowestAlphabet : Prop :=
  ∀ s : State, Config.legal s.cfg = true → s.inLen.toNat ≤ 63 → s.inLen.toNat ≤ s.cfg.p / 4 →
    s.cfg.p / 8 < s.inLen.toNat →
    (∀ a ∈ restrictedAlphabets, s.inLen.toNat ≤ maxLength s.cfg a → admits s.cfg a (stringUnits s) = true →
      (∀ b ∈ restrictedAlphabets, alphabetId b < alphabetId a → s.inLen.toNat ≤ maxLength s.cfg b →
        admits s.cfg b (stringUnits s) = false) →
      ∃ u, exec .encode s = .next u ∧ SameVisible
        { s with
          hdr := BitVec.ofNat 12 (0x800 + 64 * alphabetId a + s.inLen.toNat)
          payload := payloadWords
            (∑ k ∈ Finset.range s.inLen.toNat,
              codeOf s.cfg a (charAt s k) * 2 ^ ((s.inLen.toNat - 1 - k) * alphabetStep a))
          fsm := .idle
          status := { busy := false, done := true, ok := true, fault := s.status.fault, result := 0x0, ovr := s.status.ovr } } u) ∧
    ((∀ a ∈ restrictedAlphabets, s.inLen.toNat ≤ maxLength s.cfg a → admits s.cfg a (stringUnits s) = false) →
      ∃ u, exec .encode s = .next u ∧ SameVisible
        { s with
          fsm := .idle
          status := { busy := false, done := true, ok := false, fault := s.status.fault, result := 0x1, ovr := s.status.ovr } } u)

/-- The initial candidate set: its definition, and the table at P = 112 (41 R144). -/
def Obligations.InitialCandidates : Prop :=
  (∀ (c : Config) (L : Nat) (a : Alphabet), a ∈ restrictedAlphabets →
    candHas (initCand c L) a = decide (L ≤ c.p / alphabetStep a)) ∧
  ∀ (c : Config) (L : Nat), c.p = 112 →
    (15 ≤ L → L ≤ 16 → initCand c L = 0x1FF) ∧ (17 ≤ L → L ≤ 18 → initCand c L = 0x0FF) ∧
    (19 ≤ L → L ≤ 22 → initCand c L = 0x01F) ∧ (23 ≤ L → L ≤ 28 → initCand c L = 0x003)

/-- Classifying every character instead of stopping early gives the same selection (41 R148). -/
def Obligations.EarlyStopChangesNoSelection : Prop :=
  ∀ (c : Config) (L : Nat) (cand : BitVec 9) (us : List CodeUnit),
    tryAll c L (narrow cand us).1 (narrow cand us).2 restrictedAlphabets =
      tryAll c L (us.foldl (fun m u => m &&& keepMask (classify u)) cand) (us.map classify) restrictedAlphabets

/-- With tables whose narrowing is consistent, constraint (3) of 40 R118, ERR_CONTRACT is unreachable (41 R159). -/
def Obligations.ContractFaultIsUnreachable : Prop :=
  ∀ s t : State,
    (∀ cl ∈ properClasses, ∀ a ∈ restrictedAlphabets, candHas (keepMask cl) a = true → lutEnc s.cfg a cl ≠ .miss) →
    exec .encode s = .next t → t.status.result ≠ 0x8

/-- What ENCODE leaves unchanged (60 R264, 42 R184, R185): after a result other than SUCCESS everything but STATUS and
the engine state, after SUCCESS everything but HDR, PAYLOAD, STATUS and the engine state; and the same said of bytes. -/
def Obligations.EncodeFrame : Prop :=
  ∀ s t : State, exec .encode s = .next t →
    (t.status.result ≠ 0 → SameVisible { s with status := t.status, fsm := t.fsm } t) ∧
    (t.status.result = 0 →
      SameVisible { s with hdr := t.hdr, payload := t.payload, status := t.status, fsm := t.fsm } t) ∧
    (∀ a < 4096, a / 4 ≠ 1 → (t.status.result = 0 → a / 4 ≠ 4 ∧ ¬(16 ≤ a / 4 ∧ a / 4 < 32)) →
      readByte t a = readByte s a) ∧
    t.status.ovr = s.status.ovr

/-- A command's result depends on its operands and the parameters alone (30 R87, 42 R182, 43 R200, 41 R156, 10 R45).
Two states that agree on IN_LEN and CHAR_IN[0..L-1] have one ENCODE result, two that agree on HDR and the payload bits
below P one DECODE result, whatever their other registers, internal state, events and reset signal hold: the same end in
STATUS and the engine state, the same values in the registers it writes, and all others as they were. FAULT and OVR are
the state's own where the end does not write them. -/
def Obligations.CommandsReadOnlyTheirOperands : Prop :=
  (∀ s s' : State, s'.cfg = s.cfg → s'.inLen = s.inLen → (∀ k < s.inLen.toNat, charAt s' k = charAt s k) →
    ∃ t u, exec .encode s = .next t ∧ exec .encode s' = .next u ∧
      SameVisible
        { s' with
          hdr := if t.status.result = 0 then t.hdr else s'.hdr
          payload := if t.status.result = 0 then t.payload else s'.payload
          fsm := t.fsm
          status :=
            { t.status with
              fault := s'.status.fault || decide (8 ≤ t.status.result.toNat), ovr := s'.status.ovr } } u) ∧
  (∀ s s' : State, s'.cfg = s.cfg → s'.hdr = s.hdr →
    (∀ j < s.cfg.p, (s'.payload.getD (j / 32) 0).getLsbD (j % 32) = (s.payload.getD (j / 32) 0).getLsbD (j % 32)) →
    ∃ t u, exec .decode s = .next t ∧ exec .decode s' = .next u ∧
      SameVisible
        { s' with
          outLen := if t.status.result = 0 then t.outLen else s'.outLen
          charOut := if t.status.result = 0 then t.charOut else s'.charOut
          fsm := t.fsm
          status :=
            { t.status with
              fault := s'.status.fault || decide (8 ≤ t.status.result.toNat), ovr := s'.status.ovr } } u)

/-! ## DECODE and the rows a header dispatches to -/

/-- DECODE runs the row its header dispatches to (30 R85). -/
def Obligations.DecodeRunsTheRowOfItsHeader : Prop :=
  ∀ s : State, exec .decode s = exec (decodeHdr s.hdr) s

/-- DECODE commits the result of the function `dec`, in the order of 43 R216 (43 R200, R210). That the commit leaves the
dead internal state as it is, is the model's choice (log 11). -/
def Obligations.DecodeComputesDec : Prop :=
  ∀ s : State, exec .decode s = .next (applyDecResult (dec s.cfg s.hdr (payloadValue s)) s)

/-- A foreign tag (43 R202): whatever the payload, FOREIGN and no other change. -/
def Obligations.ForeignTagChangesOnlyStatus : Prop :=
  ∀ (s : State) (id : BitVec 4) (len : BitVec 6),
    let t : State :=
      { s with
        fsm := .idle
        status := { busy := false, done := true, ok := false, fault := s.status.fault, result := 0x2, ovr := s.status.ovr } }
    exec (.decForeign00 id len) s = .next t ∧ exec (.decForeign01 id len) s = .next t ∧
    exec (.decForeign11 id len) s = .next t ∧ (s.hdr.extractLsb' 10 2 ≠ 0b10#2 → exec .decode s = .next t)

/-- An all-zero payload decodes to the empty string whatever ID and LEN (43 R203). -/
def Obligations.ZeroPayloadDecodesToEmpty : Prop :=
  ∀ (s : State) (id : BitVec 4) (len : BitVec 6), payloadValue s = 0 →
    let t : State :=
      { s with
        outLen := 0
        charOut := Vector.replicate 64 0
        fsm := .idle
        status := { busy := false, done := true, ok := true, fault := s.status.fault, result := 0x0, ovr := s.status.ovr } }
    (∀ a : Alphabet, ∃ u, exec (rowOf a len) s = .next u ∧ SameVisible t u) ∧
    (∃ u, exec (.decBadId11 len) s = .next u ∧ SameVisible t u) ∧
    (∃ u, exec (.decBadId12to15 id len) s = .next u ∧ SameVisible t u) ∧
    (s.hdr.extractLsb' 10 2 = 0b10#2 → ∃ u, exec .decode s = .next u ∧ SameVisible t u)

/-- An undefined id with a non-zero payload (43 R204). -/
def Obligations.UndefinedIdHaltsTheEngine : Prop :=
  ∀ (s : State) (id : BitVec 4) (len : BitVec 6), payloadValue s ≠ 0 →
    let t : State :=
      { s with
        fsm := .fault
        status := { busy := false, done := true, ok := false, fault := true, result := 0x9, ovr := s.status.ovr } }
    (∃ u, exec (.decBadId11 len) s = .next u ∧ SameVisible t u) ∧
    (∃ u, exec (.decBadId12to15 id len) s = .next u ∧ SameVisible t u) ∧
    (s.hdr.extractLsb' 10 2 = 0b10#2 → 10 < (s.hdr.extractLsb' 6 4).toNat →
      ∃ u, exec .decode s = .next u ∧ SameVisible t u)

/-- A length above the capacity of the id, with a non-zero payload (43 R205). -/
def Obligations.ExcessLengthHaltsTheEngine : Prop :=
  ∀ (s : State) (a : Alphabet) (len : BitVec 6), payloadValue s ≠ 0 → s.cfg.p / alphabetStep a < len.toNat →
    let t : State :=
      { s with
        fsm := .fault
        status := { busy := false, done := true, ok := false, fault := true, result := 0xD, ovr := s.status.ovr } }
    (∃ u, exec (rowOf a len) s = .next u ∧ SameVisible t u) ∧
    (s.hdr = headerWord 0b10#2 (BitVec.ofNat 4 (alphabetId a)) len →
      ∃ u, exec .decode s = .next u ∧ SameVisible t u)

/-- The nine restricted rows on a record whose groups all decode (43 R206, R210). -/
def Obligations.RestrictedRowsUnpackEachGroup : Prop :=
  ∀ (s : State) (a : Alphabet) (len : BitVec 6) (us : List CodeUnit), a ∈ restrictedAlphabets →
    payloadValue s ≠ 0 → len.toNat ≤ s.cfg.p / alphabetStep a → us.length = len.toNat →
    (∀ k < len.toNat, lutDec s.cfg a (groupAt (alphabetStep a) len.toNat (payloadValue s) k) = some (us.getD k 0)) →
    ∃ u, exec (rowOf a len) s = .next u ∧ SameVisible
      { s with
        outLen := BitVec.ofNat 7 len.toNat
        charOut := vectorOf 64 fun k => us.getD k 0
        fsm := .idle
        status := { busy := false, done := true, ok := true, fault := s.status.fault, result := 0x0, ovr := s.status.ovr } } u

/-- The nine restricted rows on a record with a group that has no inverse (43 R207). -/
def Obligations.CodeWithoutInverseHaltsTheEngine : Prop :=
  ∀ (s : State) (a : Alphabet) (len : BitVec 6), a ∈ restrictedAlphabets →
    payloadValue s ≠ 0 → len.toNat ≤ s.cfg.p / alphabetStep a →
    (∃ k < len.toNat, lutDec s.cfg a (groupAt (alphabetStep a) len.toNat (payloadValue s) k) = none) →
    ∃ u, exec (rowOf a len) s = .next u ∧ SameVisible
      { s with
        fsm := .fault
        status := { busy := false, done := true, ok := false, fault := true, result := 0xC, ovr := s.status.ovr } } u

/-- The LATIN1 row copies bytes (43 R208, R210). -/
def Obligations.Latin1RowCopiesBytes : Prop :=
  ∀ (s : State) (len : BitVec 6), payloadValue s ≠ 0 → len.toNat ≤ s.cfg.p / 8 →
    ∃ u, exec (.decLatin1 len) s = .next u ∧ SameVisible
      { s with
        outLen := BitVec.ofNat 7 len.toNat
        charOut := vectorOf 64 fun k =>
          if k < len.toNat then BitVec.ofNat 16 (groupAt 8 len.toNat (payloadValue s) k) else 0
        fsm := .idle
        status := { busy := false, done := true, ok := true, fault := s.status.fault, result := 0x0, ovr := s.status.ovr } } u

/-- The UTF8 row deserialises the bytes of the payload, the first byte most significant (43 R209, R210). -/
def Obligations.Utf8RowDeserialisesBytes : Prop :=
  ∀ (s : State) (len : BitVec 6), payloadValue s ≠ 0 → len.toNat ≤ s.cfg.p / 8 →
    let bs : List Byte :=
      (List.range len.toNat).map fun k => BitVec.ofNat 8 (groupAt 8 len.toNat (payloadValue s) k)
    (∀ us, utf8Deserialise bs = some us →
      us.length ≤ len.toNat ∧ (0 < len.toNat → 0 < us.length) ∧
      ∃ u, exec (.decUtf8 len) s = .next u ∧ SameVisible
        { s with
          outLen := BitVec.ofNat 7 us.length
          charOut := vectorOf 64 fun k => us.getD k 0
          fsm := .idle
          status := { busy := false, done := true, ok := true, fault := s.status.fault, result := 0x0, ovr := s.status.ovr } } u) ∧
    (utf8Deserialise bs = none →
      ∃ u, exec (.decUtf8 len) s = .next u ∧ SameVisible
        { s with
          fsm := .fault
          status := { busy := false, done := true, ok := false, fault := true, result := 0xB, ovr := s.status.ovr } } u)

/-- Payload bits above the last code group change nothing, except that they make the payload non-zero (43 R211). -/
def Obligations.BitsAboveTheLastGroupAreIgnored : Prop :=
  ∀ (s : State) (a : Alphabet) (len : BitVec 6) (v : Vector Word 16),
    payloadValue s ≠ 0 → payloadValue { s with payload := v } ≠ 0 →
    payloadValue s % 2 ^ (len.toNat * alphabetStep a)
      = payloadValue { s with payload := v } % 2 ^ (len.toNat * alphabetStep a) →
    ∃ t u, exec (rowOf a len) s = .next t ∧ exec (rowOf a len) { s with payload := v } = .next u ∧
      SameVisible { t with payload := v } u

/-- What DECODE and its rows leave unchanged (60 R264): after a result other than SUCCESS everything but STATUS and the
engine state, after SUCCESS everything but OUT_LEN, CHAR_OUT, STATUS and the engine state; and the same said of bytes. -/
def Obligations.DecodeFrame : Prop :=
  ∀ (i : Instr) (s t : State), (i = .decode ∨ formatOf i = .hdr) → exec i s = .next t →
    (t.status.result ≠ 0 → SameVisible { s with status := t.status, fsm := t.fsm } t) ∧
    (t.status.result = 0 →
      SameVisible { s with outLen := t.outLen, charOut := t.charOut, status := t.status, fsm := t.fsm } t) ∧
    (∀ a < 4096, a / 4 ≠ 1 → (t.status.result = 0 → a / 4 ≠ 5 ∧ ¬(128 ≤ a / 4 ∧ a / 4 < 192)) →
      readByte t a = readByte s a) ∧
    t.status.ovr = s.status.ovr

/-! ## Records, strings and UTF-8 -/

/-- Round trip (43 R215): a successful ENCODE followed by DECODE gives the string back, unless the string is not empty
and its payload is zero, when DECODE gives the empty string. -/
def Obligations.EncodeThenDecodeGivesTheString : Prop :=
  ∀ s t : State, Config.legal s.cfg = true → exec .encode s = .next t → t.status.result = 0 →
    ∃ u, exec .decode t = .next u ∧ u.status.result = 0 ∧
      (s.inLen = 0 ∨ payloadValue t ≠ 0 →
        u.outLen.toNat = s.inLen.toNat ∧ ∀ k < s.inLen.toNat, u.charOut.getD k 0 = charAt s k) ∧
      (payloadValue t = 0 → u.outLen = 0)

/-- With the reference tables, at any width, the non-empty strings whose record has an all-zero payload are exactly the
NUL strings up to maxBytes units and the strings of '0' above that (43 R212). -/
def Obligations.OnlyNulAndZeroStringsCollide : Prop :=
  ∀ s t : State, Config.legal s.cfg = true → s.cfg = { referenceConfig with p := s.cfg.p, base := s.cfg.base } →
    exec .encode s = .next t → t.status.result = 0 → 0 < s.inLen.toNat →
    (payloadValue t = 0 ↔
      (s.inLen.toNat ≤ s.cfg.p / 8 ∧ ∀ k < s.inLen.toNat, charAt s k = 0x00) ∨
      (s.cfg.p / 8 < s.inLen.toNat ∧ ∀ k < s.inLen.toNat, charAt s k = 0x30))

/-- The serialiser fails exactly on strings with an unpaired surrogate (44 R230, R231). -/
def Obligations.SerialiserFailsOnUnpairedSurrogates : Prop :=
  ∀ us : List CodeUnit, utf8Serialise us = none ↔ ∃ k < us.length, unpairedAt us k = true

/-- UTF-8. The bytes of a scalar value in each of its four ranges, the pair of surrogates standing for one above 0xFFFF,
and that the bytes of a string are those of its parts in order (44 R230, R232); the round trips, both ways (44 R237);
and the byte count of a string with a unit above 0xFF (44 R233). -/
def Obligations.Utf8RoundTrips : Prop :=
  (∀ us : List CodeUnit, (∀ k < us.length, unpairedAt us k = false) →
    ∃ bs, utf8Serialise us = some bs ∧ utf8Deserialise bs = some us) ∧
  (∀ (bs : List Byte) (us : List CodeUnit), utf8Deserialise bs = some us → utf8Serialise us = some bs) ∧
  (∀ (us : List CodeUnit) (bs : List Byte), utf8Serialise us = some bs → (∃ u ∈ us, 0xFF < u.toNat) →
    us.length + 1 ≤ bs.length ∧ ∃ b ∈ bs, b ≠ 0) ∧
  utf8Serialise [] = some [] ∧
  (∀ u : CodeUnit, u.toNat ≤ 0x7F → utf8Serialise [u] = some [u.setWidth 8]) ∧
  (∀ u : CodeUnit, 0x80 ≤ u.toNat → u.toNat ≤ 0x7FF →
    utf8Serialise [u] = some [0b110#3 ++ u.extractLsb' 6 5, 0b10#2 ++ u.extractLsb' 0 6]) ∧
  (∀ u : CodeUnit, 0x800 ≤ u.toNat → ¬(0xD800 ≤ u.toNat ∧ u.toNat ≤ 0xDFFF) →
    utf8Serialise [u] =
      some [0b1110#4 ++ u.extractLsb' 12 4, 0b10#2 ++ u.extractLsb' 6 6, 0b10#2 ++ u.extractLsb' 0 6]) ∧
  (∀ u v : CodeUnit, 0xD800 ≤ u.toNat → u.toNat ≤ 0xDBFF → 0xDC00 ≤ v.toNat → v.toNat ≤ 0xDFFF →
    let cp : BitVec 21 := BitVec.ofNat 21 (0x10000 + (u.toNat - 0xD800) * 2 ^ 10 + (v.toNat - 0xDC00))
    utf8Serialise [u, v] =
      some [0b11110#5 ++ cp.extractLsb' 18 3, 0b10#2 ++ cp.extractLsb' 12 6, 0b10#2 ++ cp.extractLsb' 6 6,
        0b10#2 ++ cp.extractLsb' 0 6]) ∧
  (∀ (us vs : List CodeUnit) (bs cs : List Byte), utf8Serialise us = some bs → utf8Serialise vs = some cs →
    utf8Serialise (us ++ vs) = some (bs ++ cs))

/-! ## The FSM grain -/

/-- ENCODE at the FSM grain (41 R154, R155; 70 R287): from ENC_GATE, fewer than 706 arrows reach the state that the
command's meaning gives, as far as a host can see, and BUSY is 1 until then. -/
def Obligations.EncodeArrowsReachTheCommandsResult : Prop :=
  ∀ s : State, s.fsm = .encGate → s.op = 1 → s.status.busy = true →
    ∃ t n, exec .encode s = .next t ∧ n < 706 ∧ SameVisible t (arrows n s) ∧
      ∀ m < n, (arrows m s).status.busy = true

/-- DECODE at the FSM grain (43 R214, 70 R287): from DEC_CHECK, fewer than 128 arrows. -/
def Obligations.DecodeArrowsReachTheCommandsResult : Prop :=
  ∀ s : State, s.fsm = .decCheck → s.op = 2 → s.status.busy = true →
    ∃ t n, exec .decode s = .next t ∧ n < 128 ∧ SameVisible t (arrows n s) ∧
      ∀ m < n, (arrows m s).status.busy = true

/-- No arrow before the last shows a host anything: every register reads as before the command (20 R69, R70). -/
def Obligations.ArrowsHideResultsUntilTheLast : Prop :=
  ∀ s : State, s.status.busy = true → (arrow s).status.busy = true →
    (∀ r : Reg, readReg (arrow s) r = readReg s r) ∧ ∀ a < 4096, readByte (arrow s) a = readByte s a

/-! ## Host scripts -/

/-- LOADSTR and LOADREC place their operands and leave everything else, the PAYLOAD words past the payload too
(30 R91). LOADSTR is of at most 64 units: what a longer one writes is the model's choice (log 23). -/
def Obligations.LoadStatementsPlaceTheirOperands : Prop :=
  (∀ (s : State) (us : List CodeUnit), us.length ≤ 64 → s.inReset = false → s.status.busy = false →
    s.bus = expandStmt s.cfg (.loadStr us) →
    ∃ t, Sys2Proof.core.run (us.length + 1) s = .next t ∧
      t = { s with bus := [], inLen := BitVec.ofNat 16 us.length, charIn := t.charIn } ∧
      (∀ k < us.length, charAt t k = us.getD k 0) ∧ ∀ k, us.length ≤ k → charAt t k = charAt s k) ∧
  (∀ (s : State) (h : Word) (a : Nat), Config.legal s.cfg = true → a < 2 ^ s.cfg.p → s.inReset = false →
    s.status.busy = false → s.bus = expandStmt s.cfg (.loadRec h a) →
    ∃ t, Sys2Proof.core.run (payloadWordCount s.cfg + 1) s = .next t ∧
      t = { s with bus := [], hdr := h.setWidth 12, payload := t.payload } ∧ payloadValue t = a ∧
      (∀ k < payloadWordCount s.cfg, t.payload.getD k 0 = BitVec.ofNat 32 (a >>> (32 * k))) ∧
      ∀ k < 16, payloadWordCount s.cfg ≤ k → t.payload.getD k 0 = s.payload.getD k 0)

/-- The canonical host sequences (70 R289) for a Latin-1 string, under the reference scheduling: the one that encodes
it, with its WAIT and RD STATUS, leaves its record in HDR and PAYLOAD; the one that decodes this record leaves the
string in CHAR_OUT; and so does DECODE of the record that ENCODE has just left (70 R285). Every read of STATUS returns
0x006. -/
def Obligations.CanonicalSequenceReturnsTheString : Prop :=
  ∀ (s : State) (us : List CodeUnit), Config.legal s.cfg = true → s.inReset = false → s.status.busy = false →
    s.status.fault = false → 1 ≤ us.length → us.length ≤ s.cfg.p / 8 → (∀ u ∈ us, u.toNat ≤ 0xFF) →
    (∃ u ∈ us, u ≠ 0) →
    let h : Nat := 0x800 + 64 * 10 + us.length
    let a : Nat := ∑ k ∈ Finset.range us.length, (us.getD k 0).toNat * 2 ^ ((us.length - 1 - k) * 8)
    (s.bus = referenceSchedule s.cfg (expandScript s.cfg [.loadStr us, .encode, .wait, .rd .status]) →
      ∃ t, Sys2Proof.core.run (us.length + 5) s = .next t ∧ t.bus = [] ∧ readReg t .status = 0x006#32 ∧
        t.hdr = BitVec.ofNat 12 h ∧ payloadValue t = a ∧ t.observed = 0x006#32 :: 0x006#32 :: s.observed) ∧
    (s.bus = referenceSchedule s.cfg
        (expandScript s.cfg [.loadRec (BitVec.ofNat 32 h) a, .decode, .wait, .rd .status]) →
      ∃ t, Sys2Proof.core.run (payloadWordCount s.cfg + 5) s = .next t ∧ t.bus = [] ∧
        readReg t .status = 0x006#32 ∧ t.outLen.toNat = us.length ∧
        (∀ k < 64, t.charOut.getD k 0 = us.getD k 0) ∧ t.observed = 0x006#32 :: 0x006#32 :: s.observed) ∧
    (s.bus = referenceSchedule s.cfg (expandScript s.cfg
        [.loadStr us, .encode, .wait, .rd .status, .decode, .wait, .rd .status]) →
      ∃ t, Sys2Proof.core.run (us.length + 9) s = .next t ∧ t.bus = [] ∧ readReg t .status = 0x006#32 ∧
        t.hdr = BitVec.ofNat 12 h ∧ t.outLen.toNat = us.length ∧
        (∀ k < 64, t.charOut.getD k 0 = us.getD k 0) ∧
        t.observed = 0x006#32 :: 0x006#32 :: 0x006#32 :: 0x006#32 :: s.observed)

/-- A WAIT loop behind a started command ends after one engine step (30 R91, 70 R287, R288). That the engine steps
between two polls is the model's schedule (log 17). -/
def Obligations.WaitEndsWithTheCommand : Prop :=
  ∀ (s : State) (rest : List Event), s.bus = .wait :: rest → s.inReset = false → s.status.busy = true →
    (s.fsm = .encGate ∨ s.fsm = .decCheck ∨ s.fsm = .badCmd) →
    ∃ t, Sys2Proof.core.run 3 s = .next t ∧ t.bus = rest ∧ t.status.busy = false ∧ t.status.done = true ∧
      (t.fsm = .idle ∨ t.fsm = .fault) ∧
      t.observed = statusWord t.status :: statusWord s.status :: s.observed

/-! ## The byte unpacker -/

/-- The byte unpacker of an id 0 record at the FSM grain (10 R41, 43 R209, R214): with one arrow of DEC_CHECK, one for
each byte and the arrow to DEC_UTF8, BYTES holds the LEN bytes of the payload, the first most significant, and nbytes
their count. That nbytes is written with the last of these arrows is the model's choice (log 22). -/
def Obligations.ByteUnpackerFillsBytesAndCount : Prop :=
  ∀ s : State, s.fsm = .decCheck → hdrTag s.hdr = 0b10#2 → hdrId s.hdr = 0#4 → payloadValue s ≠ 0 →
    (hdrLen s.hdr).toNat ≤ s.cfg.p / 8 →
    let n := (hdrLen s.hdr).toNat
    let t := arrows (n + 2) s
    t.fsm = .decUtf8 ∧ t.nbytes.toNat = n ∧
    (∀ k < n, t.bytes.getD k 0 = BitVec.ofNat 8 (groupAt 8 n (payloadValue s) k)) ∧
    (∀ k, n ≤ k → k < 63 → t.bytes.getD k 0 = s.bytes.getD k 0) ∧ t.status = s.status
end

