-- ==== Sys2Proof/Laws/State.lean ====
section
/-! SUPPORT. What each named update of the state leaves in each field: one lemma per field and update, true by `rfl`. -/

namespace Sys2Proof.Machine

/-! ### finish -/

@[simp] theorem finish_cfg (r : ResultCode) (s : State) : (finish r s).cfg = s.cfg := rfl
@[simp] theorem finish_status (r : ResultCode) (s : State) : (finish r s).status = statusFinished r s.status := rfl
@[simp] theorem finish_inLen (r : ResultCode) (s : State) : (finish r s).inLen = s.inLen := rfl
@[simp] theorem finish_hdr (r : ResultCode) (s : State) : (finish r s).hdr = s.hdr := rfl
@[simp] theorem finish_outLen (r : ResultCode) (s : State) : (finish r s).outLen = s.outLen := rfl
@[simp] theorem finish_payload (r : ResultCode) (s : State) : (finish r s).payload = s.payload := rfl
@[simp] theorem finish_charIn (r : ResultCode) (s : State) : (finish r s).charIn = s.charIn := rfl
@[simp] theorem finish_charOut (r : ResultCode) (s : State) : (finish r s).charOut = s.charOut := rfl
@[simp] theorem finish_fsm (r : ResultCode) (s : State) : (finish r s).fsm = .idle := rfl
@[simp] theorem finish_op (r : ResultCode) (s : State) : (finish r s).op = s.op := rfl
@[simp] theorem finish_acc (r : ResultCode) (s : State) : (finish r s).acc = s.acc := rfl
@[simp] theorem finish_cand (r : ResultCode) (s : State) : (finish r s).cand = s.cand := rfl
@[simp] theorem finish_cls (r : ResultCode) (s : State) : (finish r s).cls = s.cls := rfl
@[simp] theorem finish_bytes (r : ResultCode) (s : State) : (finish r s).bytes = s.bytes := rfl
@[simp] theorem finish_nbytes (r : ResultCode) (s : State) : (finish r s).nbytes = s.nbytes := rfl
@[simp] theorem finish_i (r : ResultCode) (s : State) : (finish r s).i = s.i := rfl
@[simp] theorem finish_tryid (r : ResultCode) (s : State) : (finish r s).tryid = s.tryid := rfl
@[simp] theorem finish_hdrNext (r : ResultCode) (s : State) : (finish r s).hdrNext = s.hdrNext := rfl
@[simp] theorem finish_nNext (r : ResultCode) (s : State) : (finish r s).nNext = s.nNext := rfl
@[simp] theorem finish_outNext (r : ResultCode) (s : State) : (finish r s).outNext = s.outNext := rfl
@[simp] theorem finish_inReset (r : ResultCode) (s : State) : (finish r s).inReset = s.inReset := rfl
@[simp] theorem finish_bus (r : ResultCode) (s : State) : (finish r s).bus = s.bus := rfl
@[simp] theorem finish_observed (r : ResultCode) (s : State) : (finish r s).observed = s.observed := rfl

/-! ### raiseFatal -/

@[simp] theorem raiseFatal_cfg (c : ResultCode) (s : State) : (raiseFatal c s).cfg = s.cfg := rfl
@[simp] theorem raiseFatal_status (c : ResultCode) (s : State) : (raiseFatal c s).status = statusFatal c s.status := rfl
@[simp] theorem raiseFatal_inLen (c : ResultCode) (s : State) : (raiseFatal c s).inLen = s.inLen := rfl
@[simp] theorem raiseFatal_hdr (c : ResultCode) (s : State) : (raiseFatal c s).hdr = s.hdr := rfl
@[simp] theorem raiseFatal_outLen (c : ResultCode) (s : State) : (raiseFatal c s).outLen = s.outLen := rfl
@[simp] theorem raiseFatal_payload (c : ResultCode) (s : State) : (raiseFatal c s).payload = s.payload := rfl
@[simp] theorem raiseFatal_charIn (c : ResultCode) (s : State) : (raiseFatal c s).charIn = s.charIn := rfl
@[simp] theorem raiseFatal_charOut (c : ResultCode) (s : State) : (raiseFatal c s).charOut = s.charOut := rfl
@[simp] theorem raiseFatal_fsm (c : ResultCode) (s : State) : (raiseFatal c s).fsm = .fault := rfl
@[simp] theorem raiseFatal_op (c : ResultCode) (s : State) : (raiseFatal c s).op = s.op := rfl
@[simp] theorem raiseFatal_acc (c : ResultCode) (s : State) : (raiseFatal c s).acc = s.acc := rfl
@[simp] theorem raiseFatal_cand (c : ResultCode) (s : State) : (raiseFatal c s).cand = s.cand := rfl
@[simp] theorem raiseFatal_cls (c : ResultCode) (s : State) : (raiseFatal c s).cls = s.cls := rfl
@[simp] theorem raiseFatal_bytes (c : ResultCode) (s : State) : (raiseFatal c s).bytes = s.bytes := rfl
@[simp] theorem raiseFatal_nbytes (c : ResultCode) (s : State) : (raiseFatal c s).nbytes = s.nbytes := rfl
@[simp] theorem raiseFatal_i (c : ResultCode) (s : State) : (raiseFatal c s).i = s.i := rfl
@[simp] theorem raiseFatal_tryid (c : ResultCode) (s : State) : (raiseFatal c s).tryid = s.tryid := rfl
@[simp] theorem raiseFatal_hdrNext (c : ResultCode) (s : State) : (raiseFatal c s).hdrNext = s.hdrNext := rfl
@[simp] theorem raiseFatal_nNext (c : ResultCode) (s : State) : (raiseFatal c s).nNext = s.nNext := rfl
@[simp] theorem raiseFatal_outNext (c : ResultCode) (s : State) : (raiseFatal c s).outNext = s.outNext := rfl
@[simp] theorem raiseFatal_inReset (c : ResultCode) (s : State) : (raiseFatal c s).inReset = s.inReset := rfl
@[simp] theorem raiseFatal_bus (c : ResultCode) (s : State) : (raiseFatal c s).bus = s.bus := rfl
@[simp] theorem raiseFatal_observed (c : ResultCode) (s : State) : (raiseFatal c s).observed = s.observed := rfl

/-! ### startCommand -/

@[simp] theorem startCommand_cfg (op : BitVec 2) (s : State) : (startCommand op s).cfg = s.cfg := rfl
@[simp] theorem startCommand_status (op : BitVec 2) (s : State) : (startCommand op s).status = statusStarted s.status := rfl
@[simp] theorem startCommand_inLen (op : BitVec 2) (s : State) : (startCommand op s).inLen = s.inLen := rfl
@[simp] theorem startCommand_hdr (op : BitVec 2) (s : State) : (startCommand op s).hdr = s.hdr := rfl
@[simp] theorem startCommand_outLen (op : BitVec 2) (s : State) : (startCommand op s).outLen = s.outLen := rfl
@[simp] theorem startCommand_payload (op : BitVec 2) (s : State) : (startCommand op s).payload = s.payload := rfl
@[simp] theorem startCommand_charIn (op : BitVec 2) (s : State) : (startCommand op s).charIn = s.charIn := rfl
@[simp] theorem startCommand_charOut (op : BitVec 2) (s : State) : (startCommand op s).charOut = s.charOut := rfl
@[simp] theorem startCommand_fsm (op : BitVec 2) (s : State) : (startCommand op s).fsm = startFsm op := rfl
@[simp] theorem startCommand_op (op : BitVec 2) (s : State) : (startCommand op s).op = op := rfl
@[simp] theorem startCommand_acc (op : BitVec 2) (s : State) : (startCommand op s).acc = s.acc := rfl
@[simp] theorem startCommand_cand (op : BitVec 2) (s : State) : (startCommand op s).cand = s.cand := rfl
@[simp] theorem startCommand_cls (op : BitVec 2) (s : State) : (startCommand op s).cls = s.cls := rfl
@[simp] theorem startCommand_bytes (op : BitVec 2) (s : State) : (startCommand op s).bytes = s.bytes := rfl
@[simp] theorem startCommand_nbytes (op : BitVec 2) (s : State) : (startCommand op s).nbytes = s.nbytes := rfl
@[simp] theorem startCommand_i (op : BitVec 2) (s : State) : (startCommand op s).i = s.i := rfl
@[simp] theorem startCommand_tryid (op : BitVec 2) (s : State) : (startCommand op s).tryid = s.tryid := rfl
@[simp] theorem startCommand_hdrNext (op : BitVec 2) (s : State) : (startCommand op s).hdrNext = s.hdrNext := rfl
@[simp] theorem startCommand_nNext (op : BitVec 2) (s : State) : (startCommand op s).nNext = s.nNext := rfl
@[simp] theorem startCommand_outNext (op : BitVec 2) (s : State) : (startCommand op s).outNext = s.outNext := rfl
@[simp] theorem startCommand_inReset (op : BitVec 2) (s : State) : (startCommand op s).inReset = s.inReset := rfl
@[simp] theorem startCommand_bus (op : BitVec 2) (s : State) : (startCommand op s).bus = s.bus := rfl
@[simp] theorem startCommand_observed (op : BitVec 2) (s : State) : (startCommand op s).observed = s.observed := rfl

/-! ### dropWrite -/

@[simp] theorem dropWrite_cfg (s : State) : (dropWrite s).cfg = s.cfg := rfl
@[simp] theorem dropWrite_status (s : State) : (dropWrite s).status = statusOverrun s.status := rfl
@[simp] theorem dropWrite_inLen (s : State) : (dropWrite s).inLen = s.inLen := rfl
@[simp] theorem dropWrite_hdr (s : State) : (dropWrite s).hdr = s.hdr := rfl
@[simp] theorem dropWrite_outLen (s : State) : (dropWrite s).outLen = s.outLen := rfl
@[simp] theorem dropWrite_payload (s : State) : (dropWrite s).payload = s.payload := rfl
@[simp] theorem dropWrite_charIn (s : State) : (dropWrite s).charIn = s.charIn := rfl
@[simp] theorem dropWrite_charOut (s : State) : (dropWrite s).charOut = s.charOut := rfl
@[simp] theorem dropWrite_fsm (s : State) : (dropWrite s).fsm = s.fsm := rfl
@[simp] theorem dropWrite_op (s : State) : (dropWrite s).op = s.op := rfl
@[simp] theorem dropWrite_acc (s : State) : (dropWrite s).acc = s.acc := rfl
@[simp] theorem dropWrite_cand (s : State) : (dropWrite s).cand = s.cand := rfl
@[simp] theorem dropWrite_cls (s : State) : (dropWrite s).cls = s.cls := rfl
@[simp] theorem dropWrite_bytes (s : State) : (dropWrite s).bytes = s.bytes := rfl
@[simp] theorem dropWrite_nbytes (s : State) : (dropWrite s).nbytes = s.nbytes := rfl
@[simp] theorem dropWrite_i (s : State) : (dropWrite s).i = s.i := rfl
@[simp] theorem dropWrite_tryid (s : State) : (dropWrite s).tryid = s.tryid := rfl
@[simp] theorem dropWrite_hdrNext (s : State) : (dropWrite s).hdrNext = s.hdrNext := rfl
@[simp] theorem dropWrite_nNext (s : State) : (dropWrite s).nNext = s.nNext := rfl
@[simp] theorem dropWrite_outNext (s : State) : (dropWrite s).outNext = s.outNext := rfl
@[simp] theorem dropWrite_inReset (s : State) : (dropWrite s).inReset = s.inReset := rfl
@[simp] theorem dropWrite_bus (s : State) : (dropWrite s).bus = s.bus := rfl
@[simp] theorem dropWrite_observed (s : State) : (dropWrite s).observed = s.observed := rfl

/-! ### hostRead -/

@[simp] theorem hostRead_cfg (r : Reg) (s : State) : (hostRead r s).cfg = s.cfg := rfl
@[simp] theorem hostRead_status (r : Reg) (s : State) : (hostRead r s).status = s.status := rfl
@[simp] theorem hostRead_inLen (r : Reg) (s : State) : (hostRead r s).inLen = s.inLen := rfl
@[simp] theorem hostRead_hdr (r : Reg) (s : State) : (hostRead r s).hdr = s.hdr := rfl
@[simp] theorem hostRead_outLen (r : Reg) (s : State) : (hostRead r s).outLen = s.outLen := rfl
@[simp] theorem hostRead_payload (r : Reg) (s : State) : (hostRead r s).payload = s.payload := rfl
@[simp] theorem hostRead_charIn (r : Reg) (s : State) : (hostRead r s).charIn = s.charIn := rfl
@[simp] theorem hostRead_charOut (r : Reg) (s : State) : (hostRead r s).charOut = s.charOut := rfl
@[simp] theorem hostRead_fsm (r : Reg) (s : State) : (hostRead r s).fsm = s.fsm := rfl
@[simp] theorem hostRead_op (r : Reg) (s : State) : (hostRead r s).op = s.op := rfl
@[simp] theorem hostRead_acc (r : Reg) (s : State) : (hostRead r s).acc = s.acc := rfl
@[simp] theorem hostRead_cand (r : Reg) (s : State) : (hostRead r s).cand = s.cand := rfl
@[simp] theorem hostRead_cls (r : Reg) (s : State) : (hostRead r s).cls = s.cls := rfl
@[simp] theorem hostRead_bytes (r : Reg) (s : State) : (hostRead r s).bytes = s.bytes := rfl
@[simp] theorem hostRead_nbytes (r : Reg) (s : State) : (hostRead r s).nbytes = s.nbytes := rfl
@[simp] theorem hostRead_i (r : Reg) (s : State) : (hostRead r s).i = s.i := rfl
@[simp] theorem hostRead_tryid (r : Reg) (s : State) : (hostRead r s).tryid = s.tryid := rfl
@[simp] theorem hostRead_hdrNext (r : Reg) (s : State) : (hostRead r s).hdrNext = s.hdrNext := rfl
@[simp] theorem hostRead_nNext (r : Reg) (s : State) : (hostRead r s).nNext = s.nNext := rfl
@[simp] theorem hostRead_outNext (r : Reg) (s : State) : (hostRead r s).outNext = s.outNext := rfl
@[simp] theorem hostRead_inReset (r : Reg) (s : State) : (hostRead r s).inReset = s.inReset := rfl
@[simp] theorem hostRead_bus (r : Reg) (s : State) : (hostRead r s).bus = s.bus := rfl
@[simp] theorem hostRead_observed (r : Reg) (s : State) : (hostRead r s).observed = readReg s r :: s.observed := rfl

/-! ### commitEncode -/

@[simp] theorem commitEncode_cfg (h : BitVec 12) (a : Nat) (s : State) : (commitEncode h a s).cfg = s.cfg := rfl
@[simp] theorem commitEncode_status (h : BitVec 12) (a : Nat) (s : State) : (commitEncode h a s).status = statusFinished .success s.status := rfl
@[simp] theorem commitEncode_inLen (h : BitVec 12) (a : Nat) (s : State) : (commitEncode h a s).inLen = s.inLen := rfl
@[simp] theorem commitEncode_hdr (h : BitVec 12) (a : Nat) (s : State) : (commitEncode h a s).hdr = h := rfl
@[simp] theorem commitEncode_outLen (h : BitVec 12) (a : Nat) (s : State) : (commitEncode h a s).outLen = s.outLen := rfl
@[simp] theorem commitEncode_payload (h : BitVec 12) (a : Nat) (s : State) : (commitEncode h a s).payload = payloadWords a := rfl
@[simp] theorem commitEncode_charIn (h : BitVec 12) (a : Nat) (s : State) : (commitEncode h a s).charIn = s.charIn := rfl
@[simp] theorem commitEncode_charOut (h : BitVec 12) (a : Nat) (s : State) : (commitEncode h a s).charOut = s.charOut := rfl
@[simp] theorem commitEncode_fsm (h : BitVec 12) (a : Nat) (s : State) : (commitEncode h a s).fsm = .idle := rfl
@[simp] theorem commitEncode_op (h : BitVec 12) (a : Nat) (s : State) : (commitEncode h a s).op = s.op := rfl
@[simp] theorem commitEncode_acc (h : BitVec 12) (a : Nat) (s : State) : (commitEncode h a s).acc = s.acc := rfl
@[simp] theorem commitEncode_cand (h : BitVec 12) (a : Nat) (s : State) : (commitEncode h a s).cand = s.cand := rfl
@[simp] theorem commitEncode_cls (h : BitVec 12) (a : Nat) (s : State) : (commitEncode h a s).cls = s.cls := rfl
@[simp] theorem commitEncode_bytes (h : BitVec 12) (a : Nat) (s : State) : (commitEncode h a s).bytes = s.bytes := rfl
@[simp] theorem commitEncode_nbytes (h : BitVec 12) (a : Nat) (s : State) : (commitEncode h a s).nbytes = s.nbytes := rfl
@[simp] theorem commitEncode_i (h : BitVec 12) (a : Nat) (s : State) : (commitEncode h a s).i = s.i := rfl
@[simp] theorem commitEncode_tryid (h : BitVec 12) (a : Nat) (s : State) : (commitEncode h a s).tryid = s.tryid := rfl
@[simp] theorem commitEncode_hdrNext (h : BitVec 12) (a : Nat) (s : State) : (commitEncode h a s).hdrNext = s.hdrNext := rfl
@[simp] theorem commitEncode_nNext (h : BitVec 12) (a : Nat) (s : State) : (commitEncode h a s).nNext = s.nNext := rfl
@[simp] theorem commitEncode_outNext (h : BitVec 12) (a : Nat) (s : State) : (commitEncode h a s).outNext = s.outNext := rfl
@[simp] theorem commitEncode_inReset (h : BitVec 12) (a : Nat) (s : State) : (commitEncode h a s).inReset = s.inReset := rfl
@[simp] theorem commitEncode_bus (h : BitVec 12) (a : Nat) (s : State) : (commitEncode h a s).bus = s.bus := rfl
@[simp] theorem commitEncode_observed (h : BitVec 12) (a : Nat) (s : State) : (commitEncode h a s).observed = s.observed := rfl

/-! ### commitDecode -/

@[simp] theorem commitDecode_cfg (us : List CodeUnit) (s : State) : (commitDecode us s).cfg = s.cfg := rfl
@[simp] theorem commitDecode_status (us : List CodeUnit) (s : State) : (commitDecode us s).status = statusFinished .success s.status := rfl
@[simp] theorem commitDecode_inLen (us : List CodeUnit) (s : State) : (commitDecode us s).inLen = s.inLen := rfl
@[simp] theorem commitDecode_hdr (us : List CodeUnit) (s : State) : (commitDecode us s).hdr = s.hdr := rfl
@[simp] theorem commitDecode_outLen (us : List CodeUnit) (s : State) : (commitDecode us s).outLen = BitVec.ofNat 7 us.length := rfl
@[simp] theorem commitDecode_payload (us : List CodeUnit) (s : State) : (commitDecode us s).payload = s.payload := rfl
@[simp] theorem commitDecode_charIn (us : List CodeUnit) (s : State) : (commitDecode us s).charIn = s.charIn := rfl
@[simp] theorem commitDecode_charOut (us : List CodeUnit) (s : State) : (commitDecode us s).charOut = vectorOf 64 fun k => us.getD k 0 := rfl
@[simp] theorem commitDecode_fsm (us : List CodeUnit) (s : State) : (commitDecode us s).fsm = .idle := rfl
@[simp] theorem commitDecode_op (us : List CodeUnit) (s : State) : (commitDecode us s).op = s.op := rfl
@[simp] theorem commitDecode_acc (us : List CodeUnit) (s : State) : (commitDecode us s).acc = s.acc := rfl
@[simp] theorem commitDecode_cand (us : List CodeUnit) (s : State) : (commitDecode us s).cand = s.cand := rfl
@[simp] theorem commitDecode_cls (us : List CodeUnit) (s : State) : (commitDecode us s).cls = s.cls := rfl
@[simp] theorem commitDecode_bytes (us : List CodeUnit) (s : State) : (commitDecode us s).bytes = s.bytes := rfl
@[simp] theorem commitDecode_nbytes (us : List CodeUnit) (s : State) : (commitDecode us s).nbytes = s.nbytes := rfl
@[simp] theorem commitDecode_i (us : List CodeUnit) (s : State) : (commitDecode us s).i = s.i := rfl
@[simp] theorem commitDecode_tryid (us : List CodeUnit) (s : State) : (commitDecode us s).tryid = s.tryid := rfl
@[simp] theorem commitDecode_hdrNext (us : List CodeUnit) (s : State) : (commitDecode us s).hdrNext = s.hdrNext := rfl
@[simp] theorem commitDecode_nNext (us : List CodeUnit) (s : State) : (commitDecode us s).nNext = s.nNext := rfl
@[simp] theorem commitDecode_outNext (us : List CodeUnit) (s : State) : (commitDecode us s).outNext = s.outNext := rfl
@[simp] theorem commitDecode_inReset (us : List CodeUnit) (s : State) : (commitDecode us s).inReset = s.inReset := rfl
@[simp] theorem commitDecode_bus (us : List CodeUnit) (s : State) : (commitDecode us s).bus = s.bus := rfl
@[simp] theorem commitDecode_observed (us : List CodeUnit) (s : State) : (commitDecode us s).observed = s.observed := rfl

/-! ### storeBytes -/

@[simp] theorem storeBytes_cfg (bs : List Byte) (s : State) : (storeBytes bs s).cfg = s.cfg := rfl
@[simp] theorem storeBytes_status (bs : List Byte) (s : State) : (storeBytes bs s).status = s.status := rfl
@[simp] theorem storeBytes_inLen (bs : List Byte) (s : State) : (storeBytes bs s).inLen = s.inLen := rfl
@[simp] theorem storeBytes_hdr (bs : List Byte) (s : State) : (storeBytes bs s).hdr = s.hdr := rfl
@[simp] theorem storeBytes_outLen (bs : List Byte) (s : State) : (storeBytes bs s).outLen = s.outLen := rfl
@[simp] theorem storeBytes_payload (bs : List Byte) (s : State) : (storeBytes bs s).payload = s.payload := rfl
@[simp] theorem storeBytes_charIn (bs : List Byte) (s : State) : (storeBytes bs s).charIn = s.charIn := rfl
@[simp] theorem storeBytes_charOut (bs : List Byte) (s : State) : (storeBytes bs s).charOut = s.charOut := rfl
@[simp] theorem storeBytes_fsm (bs : List Byte) (s : State) : (storeBytes bs s).fsm = s.fsm := rfl
@[simp] theorem storeBytes_op (bs : List Byte) (s : State) : (storeBytes bs s).op = s.op := rfl
@[simp] theorem storeBytes_acc (bs : List Byte) (s : State) : (storeBytes bs s).acc = s.acc := rfl
@[simp] theorem storeBytes_cand (bs : List Byte) (s : State) : (storeBytes bs s).cand = s.cand := rfl
@[simp] theorem storeBytes_cls (bs : List Byte) (s : State) : (storeBytes bs s).cls = s.cls := rfl
@[simp] theorem storeBytes_bytes (bs : List Byte) (s : State) :
    (storeBytes bs s).bytes = vectorOf 63 fun k => bs.getD k (s.bytes.getD k 0) := rfl
@[simp] theorem storeBytes_nbytes (bs : List Byte) (s : State) : (storeBytes bs s).nbytes = BitVec.ofNat 8 bs.length := rfl
@[simp] theorem storeBytes_i (bs : List Byte) (s : State) : (storeBytes bs s).i = s.i := rfl
@[simp] theorem storeBytes_tryid (bs : List Byte) (s : State) : (storeBytes bs s).tryid = s.tryid := rfl
@[simp] theorem storeBytes_hdrNext (bs : List Byte) (s : State) : (storeBytes bs s).hdrNext = s.hdrNext := rfl
@[simp] theorem storeBytes_nNext (bs : List Byte) (s : State) : (storeBytes bs s).nNext = s.nNext := rfl
@[simp] theorem storeBytes_outNext (bs : List Byte) (s : State) : (storeBytes bs s).outNext = s.outNext := rfl
@[simp] theorem storeBytes_inReset (bs : List Byte) (s : State) : (storeBytes bs s).inReset = s.inReset := rfl
@[simp] theorem storeBytes_bus (bs : List Byte) (s : State) : (storeBytes bs s).bus = s.bus := rfl
@[simp] theorem storeBytes_observed (bs : List Byte) (s : State) : (storeBytes bs s).observed = s.observed := rfl

/-! ### countBytes -/

@[simp] theorem countBytes_cfg (s : State) : (countBytes s).cfg = s.cfg := rfl
@[simp] theorem countBytes_status (s : State) : (countBytes s).status = s.status := rfl
@[simp] theorem countBytes_inLen (s : State) : (countBytes s).inLen = s.inLen := rfl
@[simp] theorem countBytes_hdr (s : State) : (countBytes s).hdr = s.hdr := rfl
@[simp] theorem countBytes_outLen (s : State) : (countBytes s).outLen = s.outLen := rfl
@[simp] theorem countBytes_payload (s : State) : (countBytes s).payload = s.payload := rfl
@[simp] theorem countBytes_charIn (s : State) : (countBytes s).charIn = s.charIn := rfl
@[simp] theorem countBytes_charOut (s : State) : (countBytes s).charOut = s.charOut := rfl
@[simp] theorem countBytes_fsm (s : State) : (countBytes s).fsm = s.fsm := rfl
@[simp] theorem countBytes_op (s : State) : (countBytes s).op = s.op := rfl
@[simp] theorem countBytes_acc (s : State) : (countBytes s).acc = s.acc := rfl
@[simp] theorem countBytes_cand (s : State) : (countBytes s).cand = s.cand := rfl
@[simp] theorem countBytes_cls (s : State) : (countBytes s).cls = s.cls := rfl
@[simp] theorem countBytes_bytes (s : State) : (countBytes s).bytes = s.bytes := rfl
@[simp] theorem countBytes_nbytes (s : State) : (countBytes s).nbytes = (hdrLen s.hdr).setWidth 8 := rfl
@[simp] theorem countBytes_i (s : State) : (countBytes s).i = s.i := rfl
@[simp] theorem countBytes_tryid (s : State) : (countBytes s).tryid = s.tryid := rfl
@[simp] theorem countBytes_hdrNext (s : State) : (countBytes s).hdrNext = s.hdrNext := rfl
@[simp] theorem countBytes_nNext (s : State) : (countBytes s).nNext = s.nNext := rfl
@[simp] theorem countBytes_outNext (s : State) : (countBytes s).outNext = s.outNext := rfl
@[simp] theorem countBytes_inReset (s : State) : (countBytes s).inReset = s.inReset := rfl
@[simp] theorem countBytes_bus (s : State) : (countBytes s).bus = s.bus := rfl
@[simp] theorem countBytes_observed (s : State) : (countBytes s).observed = s.observed := rfl

/-! ### statusStarted -/

@[simp] theorem statusStarted_busy (st : Status) : (statusStarted st).busy = true := rfl
@[simp] theorem statusStarted_done (st : Status) : (statusStarted st).done = false := rfl
@[simp] theorem statusStarted_ok (st : Status) : (statusStarted st).ok = false := rfl
@[simp] theorem statusStarted_fault (st : Status) : (statusStarted st).fault = st.fault := rfl
@[simp] theorem statusStarted_result (st : Status) : (statusStarted st).result = 0 := rfl
@[simp] theorem statusStarted_ovr (st : Status) : (statusStarted st).ovr = false := rfl

/-! ### statusFinished -/

@[simp] theorem statusFinished_busy (r : ResultCode) (st : Status) : (statusFinished r st).busy = false := rfl
@[simp] theorem statusFinished_done (r : ResultCode) (st : Status) : (statusFinished r st).done = true := rfl
@[simp] theorem statusFinished_ok (r : ResultCode) (st : Status) : (statusFinished r st).ok = decide (r = .success) := rfl
@[simp] theorem statusFinished_fault (r : ResultCode) (st : Status) : (statusFinished r st).fault = st.fault := rfl
@[simp] theorem statusFinished_result (r : ResultCode) (st : Status) : (statusFinished r st).result = resultBits r := rfl
@[simp] theorem statusFinished_ovr (r : ResultCode) (st : Status) : (statusFinished r st).ovr = st.ovr := rfl

/-! ### statusFatal -/

@[simp] theorem statusFatal_busy (c : ResultCode) (st : Status) : (statusFatal c st).busy = false := rfl
@[simp] theorem statusFatal_done (c : ResultCode) (st : Status) : (statusFatal c st).done = true := rfl
@[simp] theorem statusFatal_ok (c : ResultCode) (st : Status) : (statusFatal c st).ok = false := rfl
@[simp] theorem statusFatal_fault (c : ResultCode) (st : Status) : (statusFatal c st).fault = true := rfl
@[simp] theorem statusFatal_result (c : ResultCode) (st : Status) : (statusFatal c st).result = resultBits c := rfl
@[simp] theorem statusFatal_ovr (c : ResultCode) (st : Status) : (statusFatal c st).ovr = st.ovr := rfl

/-! ### statusOverrun -/

@[simp] theorem statusOverrun_busy (st : Status) : (statusOverrun st).busy = st.busy := rfl
@[simp] theorem statusOverrun_done (st : Status) : (statusOverrun st).done = st.done := rfl
@[simp] theorem statusOverrun_ok (st : Status) : (statusOverrun st).ok = st.ok := rfl
@[simp] theorem statusOverrun_fault (st : Status) : (statusOverrun st).fault = st.fault := rfl
@[simp] theorem statusOverrun_result (st : Status) : (statusOverrun st).result = st.result := rfl
@[simp] theorem statusOverrun_ovr (st : Status) : (statusOverrun st).ovr = true := rfl

/-! ### assertReset -/

@[simp] theorem assertReset_cfg (s : State) : (assertReset s).cfg = s.cfg := rfl
@[simp] theorem assertReset_status (s : State) : (assertReset s).status = (State.resetWith s.cfg).status := rfl
@[simp] theorem assertReset_fsm (s : State) : (assertReset s).fsm = .idle := rfl
@[simp] theorem assertReset_inReset (s : State) : (assertReset s).inReset = true := rfl
@[simp] theorem assertReset_bus (s : State) : (assertReset s).bus = s.bus := rfl
@[simp] theorem assertReset_observed (s : State) : (assertReset s).observed = s.observed := rfl

/-! ### writeReg: only the register written, and never STATUS, the engine's state or the parameters -/

@[simp] theorem writeReg_cfg (s : State) (r : Reg) (v : Word) : (writeReg s r v).cfg = s.cfg := by cases r <;> rfl
@[simp] theorem writeReg_status (s : State) (r : Reg) (v : Word) : (writeReg s r v).status = s.status := by cases r <;> rfl
@[simp] theorem writeReg_outLen (s : State) (r : Reg) (v : Word) : (writeReg s r v).outLen = s.outLen := by cases r <;> rfl
@[simp] theorem writeReg_charOut (s : State) (r : Reg) (v : Word) : (writeReg s r v).charOut = s.charOut := by cases r <;> rfl
@[simp] theorem writeReg_fsm (s : State) (r : Reg) (v : Word) : (writeReg s r v).fsm = s.fsm := by cases r <;> rfl
@[simp] theorem writeReg_op (s : State) (r : Reg) (v : Word) : (writeReg s r v).op = s.op := by cases r <;> rfl
@[simp] theorem writeReg_acc (s : State) (r : Reg) (v : Word) : (writeReg s r v).acc = s.acc := by cases r <;> rfl
@[simp] theorem writeReg_cand (s : State) (r : Reg) (v : Word) : (writeReg s r v).cand = s.cand := by cases r <;> rfl
@[simp] theorem writeReg_cls (s : State) (r : Reg) (v : Word) : (writeReg s r v).cls = s.cls := by cases r <;> rfl
@[simp] theorem writeReg_bytes (s : State) (r : Reg) (v : Word) : (writeReg s r v).bytes = s.bytes := by cases r <;> rfl
@[simp] theorem writeReg_nbytes (s : State) (r : Reg) (v : Word) : (writeReg s r v).nbytes = s.nbytes := by cases r <;> rfl
@[simp] theorem writeReg_i (s : State) (r : Reg) (v : Word) : (writeReg s r v).i = s.i := by cases r <;> rfl
@[simp] theorem writeReg_tryid (s : State) (r : Reg) (v : Word) : (writeReg s r v).tryid = s.tryid := by cases r <;> rfl
@[simp] theorem writeReg_hdrNext (s : State) (r : Reg) (v : Word) : (writeReg s r v).hdrNext = s.hdrNext := by cases r <;> rfl
@[simp] theorem writeReg_nNext (s : State) (r : Reg) (v : Word) : (writeReg s r v).nNext = s.nNext := by cases r <;> rfl
@[simp] theorem writeReg_outNext (s : State) (r : Reg) (v : Word) : (writeReg s r v).outNext = s.outNext := by cases r <;> rfl
@[simp] theorem writeReg_inReset (s : State) (r : Reg) (v : Word) : (writeReg s r v).inReset = s.inReset := by cases r <;> rfl
@[simp] theorem writeReg_bus (s : State) (r : Reg) (v : Word) : (writeReg s r v).bus = s.bus := by cases r <;> rfl
@[simp] theorem writeReg_observed (s : State) (r : Reg) (v : Word) : (writeReg s r v).observed = s.observed := by cases r <;> rfl

end Sys2Proof.Machine
end

