-- ==== Sys2Proof/Laws/Ops.lean ====
section
/-! SUPPORT. Spec lemmas of the shared operations: bounds of the bit register and the packer, the entries of a built
vector, the shapes of the results of unpacking, the trichotomy of a selection and of a row. -/

namespace Sys2Proof.Machine

/-! ### Vectors and words -/

theorem vectorOf_getD {α : Type} (n : Nat) (f : Nat → α) (k : Nat) (d : α) :
    (vectorOf n f).getD k d = if k < n then f k else d := by
  by_cases h : k < n
  · simp [Vector.getD, vectorOf, h]
  · simp [Vector.getD, h]

theorem vectorOf_toList {α : Type} (n : Nat) (f : Nat → α) : (vectorOf n f).toList = (List.range n).map f := rfl

theorem payloadWords_getD (a k : Nat) (h : k < 16) :
    (payloadWords a).getD k 0 = BitVec.ofNat 32 (a >>> (32 * k)) := by
  simp [payloadWords, vectorOf_getD, h]

/-! ### The bit register and the packer stay below 2^P (42 R170) -/

theorem alphabetStep_le (a : Alphabet) : alphabetStep a ≤ 8 := by cases a <;> decide

theorem alphabetStep_ge (a : Alphabet) : 4 ≤ alphabetStep a := by cases a <;> decide

theorem brShiftLeft_lt (p acc n : Nat) : brShiftLeft p acc n < 2 ^ p := Nat.mod_lt _ (Nat.two_pow_pos p)

theorem brOrLow_lt (p acc v w : Nat) (hw : w ≤ p) (h : acc < 2 ^ p) : brOrLow acc v (2 ^ w - 1) < 2 ^ p := by
  unfold brOrLow
  refine Nat.or_lt_two_pow h (lt_of_le_of_lt Nat.and_le_right ?_)
  have := Nat.pow_le_pow_right (n := 2) (by decide) hw
  have := Nat.two_pow_pos w
  omega

theorem packRest_lt (p w acc : Nat) (cs : List Nat) (hw : w ≤ p) (h : acc < 2 ^ p) : packRest p w acc cs < 2 ^ p := by
  induction cs generalizing acc with
  | nil => exact h
  | cons c cs ih => exact ih _ (brOrLow_lt p _ c w hw (brShiftLeft_lt p acc w))

theorem pack_lt (p w : Nat) (cs : List Nat) (hw : w ≤ p) : pack p w cs < 2 ^ p := by
  cases cs with
  | nil => exact Nat.two_pow_pos p
  | cons c cs => exact packRest_lt p w _ cs hw (brOrLow_lt p _ c w hw (Nat.two_pow_pos p))

theorem tryRest_pass_lt (c : Config) (a : Alphabet) (acc r : Nat) (cls : List CharClass) (hp : 8 ≤ c.p)
    (h : acc < 2 ^ c.p) (ht : tryRest c a acc cls = .pass r) : r < 2 ^ c.p := by
  induction cls generalizing acc with
  | nil => cases ht; exact h
  | cons cl cls ih =>
    unfold tryRest at ht
    split at ht
    · cases ht
    · cases ht
    · exact ih _ (brOrLow_lt c.p _ _ _ ((alphabetStep_le a).trans hp) (brShiftLeft_lt ..)) ht

theorem tryAlphabet_pass_lt (c : Config) (a : Alphabet) (r : Nat) (cls : List CharClass) (hp : 8 ≤ c.p)
    (ht : tryAlphabet c a cls = .pass r) : r < 2 ^ c.p := by
  cases cls with
  | nil => cases ht; exact Nat.two_pow_pos c.p
  | cons cl cls =>
    simp only [tryAlphabet] at ht
    split at ht
    · cases ht
    · cases ht
    · exact tryRest_pass_lt c a _ r cls hp (brOrLow_lt c.p _ _ _ ((alphabetStep_le a).trans hp) (Nat.two_pow_pos c.p)) ht

theorem payloadValue_lt (s : State) : payloadValue s < 2 ^ s.cfg.p := Nat.mod_lt _ (Nat.two_pow_pos _)

/-- The zero-payload test reads the whole payload (42 R176). -/
theorem payload_readAll (s : State) : brReadAll (payloadValue s) (2 ^ s.cfg.p - 1) = payloadValue s := by
  rw [brReadAll, Nat.and_two_pow_sub_one_eq_mod, Nat.mod_eq_of_lt (payloadValue_lt s)]

/-! ### Legal parameters -/

/-- A legal width is a whole number of bytes, from 1 to 63 (00 R8). -/
theorem legal_width (c : Config) (h : Config.legal c = true) : c.p % 8 = 0 ∧ 8 ≤ c.p ∧ c.p ≤ 504 := by
  simp only [Config.legal, Bool.and_eq_true, decide_eq_true_eq] at h
  exact h.1.1.1.1.1

/-- Legal grids are proper and match the keep masks (40 R118). -/
theorem legal_grid (c : Config) (h : Config.legal c = true) (a : Alphabet) (ha : a ∈ restrictedAlphabets) :
    gridProper c a = true ∧ gridMatchesKeep c a = true := by
  simp only [Config.legal, Bool.and_eq_true, List.all_eq_true] at h
  exact h.1.1.1.1.2 a ha

/-! ### The selector -/

/-- Whatever is selected below 2^P is stored whole: a payload selected under a legal width is below 2^P. -/
theorem tryAll_success_lt (c : Config) (L : Nat) (cand : BitVec 9) (cls : List CharClass) (as : List Alphabet)
    (a : Alphabet) (n r : Nat) (hp : 8 ≤ c.p) (h : tryAll c L cand cls as = .success a n r) : r < 2 ^ c.p := by
  induction as with
  | nil => cases h
  | cons b bs ih =>
    unfold tryAll at h
    split at h
    · split at h
      · cases h; exact tryAlphabet_pass_lt c _ _ cls hp ‹_›
      · exact ih h
      · cases h
    · exact ih h

theorem select_success_lt (c : Config) (L : Nat) (us : List CodeUnit) (a : Alphabet) (n r : Nat) (hp : 8 ≤ c.p)
    (h : select c L us = .success a n r) : r < 2 ^ c.p := by
  unfold select at h
  split at h
  · cases h
  split at h
  · cases h; exact Nat.two_pow_pos _
  split at h
  · split at h
    · cases h; exact pack_lt _ _ _ hp
    · unfold selectUtf8 at h
      split at h
      · cases h
      · split at h
        · cases h; exact pack_lt _ _ _ hp
        · cases h
  · exact tryAll_success_lt c L _ _ _ a n r hp h

/-! ### Unpacking -/

theorem unpackGroups_length (w n acc : Nat) (out : List Nat) :
    (unpackGroups w n acc out).length = n + out.length := by
  induction n generalizing acc out with
  | zero => simp [unpackGroups]
  | succ n ih => rw [unpackGroups, ih]; simp; omega

theorem decodeGroups_length (c : Config) (a : Alphabet) (gs : List Nat) (us : List CodeUnit)
    (h : decodeGroups c a gs = some us) : us.length = gs.length := by
  induction gs generalizing us with
  | nil => cases h; rfl
  | cons g gs ih =>
    unfold decodeGroups at h
    split at h
    · next hu hus => cases h; simp [ih _ hus]
    · cases h

/-- The three things a row with a defined id can do (43 R203, R205 to R209). -/
theorem rowAlphabet_cases (a : Alphabet) (len : BitVec 6) (s : State) :
    (payloadValue s = 0 ∧ rowAlphabet a len s = commitDecode [] s) ∨
    (payloadValue s ≠ 0 ∧ maxLength s.cfg a < len.toNat ∧ rowAlphabet a len s = raiseFatal .errBadLength s) ∨
    (payloadValue s ≠ 0 ∧ len.toNat ≤ maxLength s.cfg a ∧
      rowAlphabet a len s = applyDecResult (decodePayload s.cfg a len.toNat (payloadValue s)) s) := by
  unfold rowAlphabet
  rw [payload_readAll]
  split
  · exact .inl ⟨‹_›, rfl⟩
  · split
    · exact .inr (.inl ⟨‹_›, ‹_›, rfl⟩)
    · exact .inr (.inr ⟨‹_›, by omega, rfl⟩)

/-- The two things a row with an undefined id can do (43 R203, R204). -/
theorem rowBadId_cases (s : State) :
    (payloadValue s = 0 ∧ rowBadId s = commitDecode [] s) ∨
    (payloadValue s ≠ 0 ∧ rowBadId s = raiseFatal .errBadId s) := by
  unfold rowBadId
  rw [payload_readAll]
  split
  · exact .inl ⟨‹_›, rfl⟩
  · exact .inr ⟨‹_›, rfl⟩

/-! ### The register file -/

theorem regAt_zero : regAt 0 = .cmd := rfl

/-- Only offset 0 is CMD (20 R61). -/
theorem regAt_eq_cmd (off : Nat) : regAt off = .cmd ↔ off = 0 := by
  unfold regAt
  constructor
  · intro h
    by_contra hne
    simp only [hne, if_false] at h
    repeat' (split at h <;> try cases h)
  · rintro rfl; rfl

/-- The four things a host write with BUSY = 0 can do to a register other than CMD (10 R47). -/
theorem writeReg_cases (s : State) (r : Reg) (v : Word) :
    writeReg s r v = s ∨ writeReg s r v = { s with inLen := v.setWidth 16 } ∨
    writeReg s r v = { s with hdr := v.setWidth 12 } ∨
    (∃ k, writeReg s r v = { s with payload := s.payload.setIfInBounds k (v &&& payloadMask s.cfg k) }) ∨
    ∃ k, writeReg s r v = { s with charIn := s.charIn.setIfInBounds k (v.setWidth 16) } := by
  cases r with
  | inLen => exact .inr (.inl rfl)
  | hdr => exact .inr (.inr (.inl rfl))
  | payload k => exact .inr (.inr (.inr (.inl ⟨k, rfl⟩)))
  | charIn k => exact .inr (.inr (.inr (.inr ⟨k, rfl⟩)))
  | _ => exact .inl rfl

end Sys2Proof.Machine
end

