-- ==== Sys2Proof/Laws/PerInstr.lean ====
section
/-! SUPPORT. A fact of every instruction's encoding, one lemma per constructor: the register word of an instruction
fits the width of its format (spec 30 R80). -/

namespace Sys2Proof.Laws

/-- The register word of an instruction lies in the bits its format defines: 2 of CMD, 12 of HDR. -/
def EncodingWidth.Statement (i : Instr) : Prop :=
  (encodeWord i).toNat < (match formatOf i with | .cmd => 2 ^ 2 | .hdr => 2 ^ 12)

theorem header_lt (h : BitVec 12) : (h.setWidth 32).toNat < 2 ^ 12 := by
  rw [BitVec.toNat_setWidth_of_le (by decide)]; exact h.isLt

theorem EncodingWidth.nop : EncodingWidth.Statement .nop := by unfold EncodingWidth.Statement; decide
theorem EncodingWidth.encode : EncodingWidth.Statement .encode := by unfold EncodingWidth.Statement; decide
theorem EncodingWidth.decode : EncodingWidth.Statement .decode := by unfold EncodingWidth.Statement; decide
theorem EncodingWidth.reservedCmd : EncodingWidth.Statement .reservedCmd := by unfold EncodingWidth.Statement; decide
theorem EncodingWidth.decForeign00 (id : BitVec 4) (len : BitVec 6) : EncodingWidth.Statement (.decForeign00 id len) :=
  header_lt _
theorem EncodingWidth.decForeign01 (id : BitVec 4) (len : BitVec 6) : EncodingWidth.Statement (.decForeign01 id len) :=
  header_lt _
theorem EncodingWidth.decForeign11 (id : BitVec 4) (len : BitVec 6) : EncodingWidth.Statement (.decForeign11 id len) :=
  header_lt _
theorem EncodingWidth.decUtf8 (len : BitVec 6) : EncodingWidth.Statement (.decUtf8 len) := header_lt _
theorem EncodingWidth.decNumerical (len : BitVec 6) : EncodingWidth.Statement (.decNumerical len) := header_lt _
theorem EncodingWidth.decDate (len : BitVec 6) : EncodingWidth.Statement (.decDate len) := header_lt _
theorem EncodingWidth.decUpper (len : BitVec 6) : EncodingWidth.Statement (.decUpper len) := header_lt _
theorem EncodingWidth.decLower (len : BitVec 6) : EncodingWidth.Statement (.decLower len) := header_lt _
theorem EncodingWidth.decEmail (len : BitVec 6) : EncodingWidth.Statement (.decEmail len) := header_lt _
theorem EncodingWidth.decEmailsym (len : BitVec 6) : EncodingWidth.Statement (.decEmailsym len) := header_lt _
theorem EncodingWidth.decAlphanum (len : BitVec 6) : EncodingWidth.Statement (.decAlphanum len) := header_lt _
theorem EncodingWidth.decAlphasym (len : BitVec 6) : EncodingWidth.Statement (.decAlphasym len) := header_lt _
theorem EncodingWidth.decEuropean (len : BitVec 6) : EncodingWidth.Statement (.decEuropean len) := header_lt _
theorem EncodingWidth.decLatin1 (len : BitVec 6) : EncodingWidth.Statement (.decLatin1 len) := header_lt _
theorem EncodingWidth.decBadId11 (len : BitVec 6) : EncodingWidth.Statement (.decBadId11 len) := header_lt _
theorem EncodingWidth.decBadId12to15 (id : BitVec 4) (len : BitVec 6) :
    EncodingWidth.Statement (.decBadId12to15 id len) := header_lt _

end Sys2Proof.Laws
end

