-- ==== Sys2Proof/Laws/Step.lean ====
section
/-! SUPPORT. What a step can do, said once: inversion lemmas of the host port, the engine and the step, and what no
arrow changes. -/

namespace Sys2Proof.Machine

/-- Every instruction has a next state in every state. -/
theorem exec_next (i : Instr) (s : State) : ∃ t, exec i s = .next t := by
  cases i with
  | decode =>
    change ∃ t, execDecode s = .next t
    unfold execDecode
    generalize decodeHdr s.hdr = d
    cases d <;> exact ⟨_, rfl⟩
  | _ => exact ⟨_, rfl⟩

/-- What a host write can do (10 R21, 60 R255, R258). -/
theorem hostWrite_cases (r : Reg) (v : Word) (s : State) :
    (s.status.busy = true ∧ hostWrite r v s = .next (dropWrite s)) ∨
    (s.status.busy = false ∧ r = .cmd ∧ s.status.fault = true ∧ hostWrite r v s = .next s) ∨
    (s.status.busy = false ∧ r = .cmd ∧ s.status.fault = false ∧ field v 0 2 = 0 ∧
      hostWrite r v s = exec (decodeCmd v) s) ∨
    (s.status.busy = false ∧ r = .cmd ∧ s.status.fault = false ∧ field v 0 2 ≠ 0 ∧
      hostWrite r v s = .next (startCommand (field v 0 2) s)) ∨
    (s.status.busy = false ∧ r ≠ .cmd ∧ hostWrite r v s = .next (writeReg s r v)) := by
  unfold hostWrite
  by_cases hb : s.status.busy
  · exact .inl ⟨hb, if_pos hb⟩
  rw [if_neg hb]
  have hb' : s.status.busy = false := by simpa using hb
  by_cases hr : r = .cmd
  · rw [if_pos hr]
    by_cases hf : s.status.fault
    · exact .inr (.inl ⟨hb', hr, hf, if_pos hf⟩)
    rw [if_neg hf]
    have hf' : s.status.fault = false := by simpa using hf
    by_cases hv : field v 0 2 = 0
    · exact .inr (.inr (.inl ⟨hb', hr, hf', hv, if_pos hv⟩))
    · exact .inr (.inr (.inr (.inl ⟨hb', hr, hf', hv, if_neg hv⟩)))
  · exact .inr (.inr (.inr (.inr ⟨hb', hr, if_neg hr⟩)))

/-- Where an access lands: at an aligned offset of the register space, or it stops by name (20 R60, R64). -/
theorem portOffset_next (c : Config) (addr size off : Nat) :
    portOffset c addr size = .next off ↔
      c.base ≤ addr ∧ addr < c.base + 4096 ∧ size = 4 ∧ (addr - c.base) % 4 = 0 ∧ off = addr - c.base := by
  unfold portOffset
  split
  · simp; omega
  · split
    · simp; omega
    · split
      · simp; omega
      · simp only [Host.Outcome.next.injEq]; omega

/-- An aligned 4-byte access inside the window reaches its offset. -/
theorem portOffset_of_aligned (c : Config) (off : Nat) (h : off < 4096) (ha : off % 4 = 0) :
    portOffset c (c.base + off) 4 = .next off := by
  rw [portOffset_next]; simp; omega

/-- A host step that answers a next state reached an offset (20 R64): it is a read or a write there (70 R288 a), or, while
reset is asserted, nothing (70 R280). -/
theorem hostStep_next (a : Access) (s t : State) (h : hostStep a s = .next t) :
    ∃ off, accessOffset s.cfg a = .next off ∧
      (s.inReset = true ∧ t = s ∨
       s.inReset = false ∧ (t = hostRead (regAt off) s ∨ ∃ v, hostWrite (regAt off) v s = .next t)) := by
  unfold hostStep at h
  split at h
  · next off ho =>
    refine ⟨off, ho, ?_⟩
    cases hr : s.inReset
    · rw [hr] at h
      cases a with
      | read _ _ => cases h; exact .inr ⟨rfl, .inl rfl⟩
      | write _ _ v => exact .inr ⟨rfl, .inr ⟨v, h⟩⟩
    · rw [hr] at h; cases h; exact .inl ⟨rfl, rfl⟩
  · cases h
  · cases h

/-- A host access that is not a 32-bit one to a word-aligned offset of the register space has no next state, with reset
asserted or not (20 R60, R64). -/
theorem hostStep_stops (a : Access) (s : State) (h : ∀ off, accessOffset s.cfg a ≠ .next off) :
    ∀ t, hostStep a s ≠ .next t := fun t ht =>
  let ⟨off, ho, _⟩ := hostStep_next a s t ht
  h off ho

/-- What an engine turn at the reference grain can do (70 R287, R288 b). -/
theorem engineStep_cases (s : State) :
    (s.status.busy = false ∧ engineStep s = .next s) ∨
    (s.status.busy = true ∧ s.fsm = .encGate ∧ engineStep s = exec .encode s) ∨
    (s.status.busy = true ∧ s.fsm = .decCheck ∧ engineStep s = exec .decode s) ∨
    (s.status.busy = true ∧ s.fsm = .badCmd ∧ engineStep s = exec .reservedCmd s) ∨
    (s.status.busy = true ∧ s.fsm ≠ .encGate ∧ s.fsm ≠ .decCheck ∧ s.fsm ≠ .badCmd ∧
      engineStep s = .next (arrow s)) := by
  unfold engineStep
  by_cases hb : s.status.busy
  · cases hf : s.fsm <;> simp [hb]
  · simp [hb]

/-- What an event can do (70 R280, R288). -/
theorem eventStep_cases (e : Event) (s t : State) (h : eventStep e s = .next t) :
    (e = .resetAssert ∧ t = assertReset s) ∨ (e = .resetRelease ∧ t = { s with inReset := false }) ∨
    (s.inReset = true ∧ t = s) ∨
    (s.inReset = false ∧ ∃ a, e = .host a ∧ hostStep a s = .next t) ∨
    (s.inReset = false ∧ e = .wait ∧ t = waitStep s) ∨
    (s.inReset = false ∧ e = .engine ∧ engineStep s = .next t) ∨
    (s.inReset = false ∧ e = .tick ∧ t = tickStep s) := by
  cases e with
  | host a =>
    obtain ⟨_, _, ⟨hr, ht⟩ | ⟨hr, _⟩⟩ := hostStep_next a s t h
    · exact .inr (.inr (.inl ⟨hr, ht⟩))
    · exact .inr (.inr (.inr (.inl ⟨hr, a, rfl, h⟩)))
  | _ => cases hr : s.inReset <;> simp_all [eventStep]

/-- What a step can do: with nothing pending the engine's turn, unless reset is asserted, else the first event. -/
theorem step_cases (s t : State) (h : step s = .next t) :
    (s.bus = [] ∧ s.inReset = true ∧ t = s) ∨
    (s.bus = [] ∧ s.inReset = false ∧ engineStep s = .next t) ∨
    (∃ e rest, s.bus = e :: rest ∧ eventStep e { s with bus := rest } = .next t) := by
  unfold step runStep at h
  split at h
  · next hb =>
    cases hr : s.inReset
    · exact .inr (.inl ⟨hb, rfl, by simpa [hr] using h⟩)
    · exact .inl ⟨hb, rfl, by simpa [hr] using h.symm⟩
  · next e rest hb => exact .inr (.inr ⟨e, rest, hb, h⟩)

/-! ### What no arrow changes: the parameters, the host's inputs, the latched OP and the surroundings -/

/-- The part of the state that arrows read and never write. -/
structure ArrowKeeps (s t : State) : Prop where
  cfg : t.cfg = s.cfg
  inLen : t.inLen = s.inLen
  charIn : t.charIn = s.charIn
  op : t.op = s.op
  inReset : t.inReset = s.inReset
  bus : t.bus = s.bus
  observed : t.observed = s.observed

theorem arrowDecUnpack_keeps (s : State) : ArrowKeeps s (arrowDecUnpack s) := by
  unfold arrowDecUnpack
  split
  · constructor <;> rfl
  · next a _ =>
    split
    · split <;> constructor <;> rfl
    · cases a <;> simp only [arrowUnpackGroup] <;> first | (split <;> constructor <;> rfl) | (constructor <;> rfl)

theorem arrow_keeps (s : State) : ArrowKeeps s (arrow s) := by
  unfold arrow
  split
  case h_10 => exact arrowDecUnpack_keeps s
  all_goals first
    | (constructor <;> rfl)
    | (unfold arrowEncGate; repeat' split)
    | (unfold arrowEncLatin1; repeat' split)
    | (unfold arrowEncUtf8; repeat' split)
    | (unfold arrowEncClassify; repeat' split)
    | (unfold arrowEncTry; repeat' split)
    | (unfold arrowEncPack; repeat' split)
    | (unfold arrowDecCheck; repeat' split)
    | (unfold arrowDecUtf8; repeat' split)
    | (unfold arrowCommit; repeat' split)
  all_goals (constructor <;> rfl)

end Sys2Proof.Machine
end

