-- ==== Sys2Proof/Tests/Slice0.lean ====
section
/-! SUPPORT. The model's own tests. Words are written out from the tables of spec 30 R82, R83 and R85; expected values
are those of spec 95 (section 2 and 3), never the model's own. Then, for every statement with hypotheses, a concrete
state and operands that meet them all. -/

namespace Sys2Proof.Tests

open Sys2Proof Sys2Proof.Machine

set_option Elab.async false

/-! ## Well-formedness -/

theorem test_wf_refuses_id_3 : (Instr.decBadId12to15 3 0).wellFormed = false := by decide
theorem test_wf_refuses_id_11 : (Instr.decBadId12to15 11 63).wellFormed = false := by decide
theorem test_wf_accepts_id_12 : (Instr.decBadId12to15 12 63).wellFormed = true := by decide

/-! ## Decoding, one word for each constructor -/

theorem test_decode_not_one_register : Sys2Proof.decode .cmd [0x01, 0x00] = .error (.notOneRegister 2) := rfl
/-- OP = 0b00, ignored bits set. -/
theorem test_decode_nop : Sys2Proof.decode .cmd [0xF0, 0x00, 0x00, 0xFF] = .ok .nop := rfl
/-- OP = 0b01, ignored bits set: 0x00000005 is ENCODE (95 section 2.10). -/
theorem test_decode_encode : Sys2Proof.decode .cmd [0x05, 0x00, 0x00, 0x00] = .ok .encode := rfl
theorem test_decode_decode : Sys2Proof.decode .cmd [0x02, 0x00, 0x00, 0x00] = .ok .decode := rfl
theorem test_decode_reserved : Sys2Proof.decode .cmd [0x03, 0x00, 0x00, 0x00] = .ok .reservedCmd := rfl
/-- 00 1011 000001. -/
theorem test_decode_foreign00 : Sys2Proof.decode .hdr [0xC1, 0x02, 0x00, 0x00] = .ok (.decForeign00 11 1) := rfl
/-- 01 0001 000101, bits 31:12 set and ignored (30 R88 f). -/
theorem test_decode_foreign01 : Sys2Proof.decode .hdr [0x45, 0xF4, 0xFF, 0xFF] = .ok (.decForeign01 1 5) := rfl
/-- 11 1111 111111. -/
theorem test_decode_foreign11 : Sys2Proof.decode .hdr [0xFF, 0x0F, 0x00, 0x00] = .ok (.decForeign11 15 63) := rfl
/-- 10 0000 000000. -/
theorem test_decode_utf8 : Sys2Proof.decode .hdr [0x00, 0x08, 0x00, 0x00] = .ok (.decUtf8 0) := rfl
/-- 10 0001 001111. -/
theorem test_decode_numerical : Sys2Proof.decode .hdr [0x4F, 0x08, 0x00, 0x00] = .ok (.decNumerical 15) := rfl
/-- 10 0010 011001. -/
theorem test_decode_date : Sys2Proof.decode .hdr [0x99, 0x08, 0x00, 0x00] = .ok (.decDate 25) := rfl
/-- 10 0011 010110. -/
theorem test_decode_upper : Sys2Proof.decode .hdr [0xD6, 0x08, 0x00, 0x00] = .ok (.decUpper 22) := rfl
/-- 10 0100 001111. -/
theorem test_decode_lower : Sys2Proof.decode .hdr [0x0F, 0x09, 0x00, 0x00] = .ok (.decLower 15) := rfl
/-- 10 0101 010011. -/
theorem test_decode_email : Sys2Proof.decode .hdr [0x53, 0x09, 0x00, 0x00] = .ok (.decEmail 19) := rfl
/-- 10 0110 010000. -/
theorem test_decode_emailsym : Sys2Proof.decode .hdr [0x90, 0x09, 0x00, 0x00] = .ok (.decEmailsym 16) := rfl
/-- 10 0111 010000. -/
theorem test_decode_alphanum : Sys2Proof.decode .hdr [0xD0, 0x09, 0x00, 0x00] = .ok (.decAlphanum 16) := rfl
/-- 10 1000 010000. -/
theorem test_decode_alphasym : Sys2Proof.decode .hdr [0x10, 0x0A, 0x00, 0x00] = .ok (.decAlphasym 16) := rfl
/-- 10 1001 010000. -/
theorem test_decode_european : Sys2Proof.decode .hdr [0x50, 0x0A, 0x00, 0x00] = .ok (.decEuropean 16) := rfl
/-- 10 1010 111111. -/
theorem test_decode_latin1 : Sys2Proof.decode .hdr [0xBF, 0x0A, 0x00, 0x00] = .ok (.decLatin1 63) := rfl
/-- 10 1011 000010. -/
theorem test_decode_badid11 : Sys2Proof.decode .hdr [0xC2, 0x0A, 0x00, 0x00] = .ok (.decBadId11 2) := rfl
/-- 10 1110 000001. -/
theorem test_decode_badid14 : Sys2Proof.decode .hdr [0x81, 0x0B, 0x00, 0x00] = .ok (.decBadId12to15 14 1) := rfl
/-- A table word as the host numbers it. -/
theorem test_table_word : decodeTableWord 12 0x953 = some (.decEmail 19) ∧ decodeTableWord 2 3 = some .reservedCmd := by
  decide

/-! ## Small states and what is read off a result -/

/-- The code units of ASCII text. -/
def ascii (text : String) : List CodeUnit := text.toList.map fun ch => BitVec.ofNat 16 ch.toNat

/-- STATUS while a command runs. -/
def busyStatus : Status := { busy := true, done := false, ok := false, fault := false, result := 0, ovr := false }

/-- A block that has just started ENCODE on a string. -/
def stringState (c : Config) (us : List CodeUnit) : State :=
  { State.resetWith c with
    status := busyStatus, op := 1, fsm := .encGate, inLen := BitVec.ofNat 16 us.length
    charIn := vectorOf 64 fun k => us.getD k 0 }

/-- A block that has just started DECODE on a record. -/
def recordState (c : Config) (h : BitVec 12) (a : Nat) : State :=
  { State.resetWith c with status := busyStatus, op := 2, fsm := .decCheck, hdr := h, payload := payloadWords a }

/-- An idle block with events pending. -/
def idleState (c : Config) (bus : List Event) : State := { State.resetWith c with bus := bus }

/-- A block in FAULT after an undefined id, with events pending. -/
def faultState (c : Config) (bus : List Event) : State :=
  { State.resetWith c with
    fsm := .fault, bus := bus
    status := { busy := false, done := true, ok := false, fault := true, result := 9, ovr := false } }

/-- STATUS, HDR and payload after a step. -/
def encoded (o : Host.Outcome State Fault Refusal) : Option (Nat × Nat × Nat) :=
  match o with
  | .next t => some ((statusWord t.status).toNat, t.hdr.toNat, payloadValue t)
  | .fault _ | .refused _ => none

/-- STATUS and the string in CHAR_OUT after a step. -/
def decoded (o : Host.Outcome State Fault Refusal) : Option (Nat × List CodeUnit) :=
  match o with
  | .next t => some ((statusWord t.status).toNat, t.charOut.toList.take t.outLen.toNat)
  | .fault _ | .refused _ => none

/-- STATUS and the engine state after a step. -/
def ended (o : Host.Outcome State Fault Refusal) : Option (Nat × Fsm) :=
  match o with
  | .next t => some ((statusWord t.status).toNat, t.fsm)
  | .fault _ | .refused _ => none

/-- A register after a step. -/
def readAfter (o : Host.Outcome State Fault Refusal) (r : Reg) : Option Nat :=
  match o with
  | .next t => some (readReg t r).toNat
  | .fault _ | .refused _ => none

/-! ## One or two steps for each instruction; vectors of 95 sections 2.5, 2.8 and 2.10 -/

theorem test_nop_keeps_status :
    ended (step { idleState referenceConfig [.host (.write 0 4 0xFFFFFFFC)] with
      status := { busy := false, done := true, ok := false, fault := false, result := 1, ovr := false } })
      = some (0x012, .idle) := by decide +kernel
/-- Alphabet UPPER at 15 characters. -/
theorem test_encode_upper :
    encoded (step (stringState referenceConfig (ascii "HELLO WORLD FOO")))
      = some (0x006, 0x8CF, 0x20AC63C177C984019EF) := by decide +kernel
/-- DATE fails on its unresolved mark, EMAILSYM is next. -/
theorem test_encode_falls_through :
    encoded (step (stringState referenceConfig (ascii "12:30.45:00.1234")))
      = some (0x006, 0x990, 0x83A04066146A01066083105) := by decide +kernel
theorem test_encode_utf8_pair :
    encoded (step (stringState referenceConfig [0xD83D, 0xDE00])) = some (0x006, 0x804, 0xF09F9880) := by decide +kernel
theorem test_encode_unpaired :
    ended (step (stringState referenceConfig [0x41, 0xD800, 0x42])) = some (0x0AA, .fault) := by decide +kernel
theorem test_encode_p16 :
    encoded (exec .encode (stringState { referenceConfig with p := 16 } (ascii "ABC"))) = some (0x006, 0x8C3, 0x443) ∧
    ended (exec .encode (stringState { referenceConfig with p := 16 } (ascii "ABCD"))) = some (0x012, .idle) := by
  decide +kernel
theorem test_decode_round_trip :
    decoded (step (recordState referenceConfig 0x953 0x3434A2433FB8AFA1468E0DED))
      = some (0x006, ascii "mattias@neotech.com") := by decide +kernel
theorem test_decode_ignores_high_bits :
    decoded (exec .decode (recordState referenceConfig 0x8CF (0x20AC63C177C984019EF + 2 ^ 100)))
      = some (0x006, ascii "HELLO WORLD FOO") := by decide +kernel
theorem test_reserved_command :
    ended (exec .reservedCmd { stringState referenceConfig [] with op := 3, fsm := .badCmd }) = some (0x0EA, .fault) := by
  decide +kernel
theorem test_foreign00 :
    ended (exec (.decForeign00 0 0) (recordState referenceConfig 0x000 0)) = some (0x022, .idle) := by decide +kernel
theorem test_foreign01 :
    ended (exec (.decForeign01 1 5) (recordState referenceConfig 0x445 3)) = some (0x022, .idle) := by decide +kernel
theorem test_foreign11 :
    ended (exec (.decForeign11 15 63) (recordState referenceConfig 0xFFF 0)) = some (0x022, .idle) := by decide +kernel
theorem test_utf8_row :
    decoded (exec (.decUtf8 3) (recordState referenceConfig 0x803 0x61CEA9)) = some (0x006, [0x0061, 0x03A9]) := by
  decide +kernel
theorem test_utf8_row_overlong :
    ended (exec (.decUtf8 2) (recordState referenceConfig 0x802 0xC0AF)) = some (0x0BA, .fault) := by decide +kernel
theorem test_numerical_row :
    decoded (exec (.decNumerical 1) (recordState referenceConfig 0x841 0x35)) = some (0x006, ascii "5") := by
  decide +kernel
theorem test_numerical_row_len_0 :
    decoded (exec (.decNumerical 0) (recordState referenceConfig 0x840 5)) = some (0x006, []) := by decide +kernel
theorem test_date_row :
    decoded (exec (.decDate 25) (recordState referenceConfig 0x899 0x2009C01C03A33D22D11AE0200))
      = some (0x006, ascii "2009-01-03 33:22:11 +0200") := by decide +kernel
theorem test_date_row_unresolved :
    ended (exec (.decDate 1) (recordState referenceConfig 0x881 0xB)) = some (0x0CA, .fault) := by decide +kernel
theorem test_upper_row :
    decoded (exec (.decUpper 1) (recordState referenceConfig 0x8C1 0x1F)) = some (0x006, ascii "/") := by decide +kernel
theorem test_upper_row_too_long :
    ended (exec (.decUpper 23) (recordState referenceConfig 0x8D7 1)) = some (0x0DA, .fault) := by decide +kernel
theorem test_lower_row :
    decoded (exec (.decLower 15) (recordState referenceConfig 0x90F 0x20AC63C177C984019EF))
      = some (0x006, ascii "hello world foo") := by decide +kernel
theorem test_email_row :
    decoded (exec (.decEmail 1) (recordState referenceConfig 0x941 0x1F)) = some (0x006, ascii "@") := by decide +kernel
theorem test_emailsym_row :
    decoded (exec (.decEmailsym 16) (recordState referenceConfig 0x990 0x83A04066146A01066083105))
      = some (0x006, ascii "12:30.45:00.1234") := by decide +kernel
theorem test_emailsym_row_spare :
    ended (exec (.decEmailsym 1) (recordState referenceConfig 0x981 0x2E)) = some (0x0CA, .fault) := by decide +kernel
theorem test_alphanum_row :
    decoded (exec (.decAlphanum 16) (recordState referenceConfig 0x9D0 0x4A9C30CC20C4873DB0A05187))
      = some (0x006, ascii "Hello123World456") := by decide +kernel
theorem test_alphasym_row :
    decoded (exec (.decAlphasym 16) (recordState referenceConfig 0xA10 0x21F9A6A405E9B267B91A9A78))
      = some (0x006, ascii "Hello World/Foo:") := by decide +kernel
theorem test_alphasym_row_spare :
    ended (exec (.decAlphasym 1) (recordState referenceConfig 0xA01 0x3A)) = some (0x0CA, .fault) := by decide +kernel
theorem test_european_row :
    decoded (exec (.decEuropean 5) (recordState referenceConfig 0xA45 0x1F)) = some (0x006, ascii "    U") := by
  decide +kernel
theorem test_european_row_unresolved :
    ended (exec (.decEuropean 1) (recordState referenceConfig 0xA41 0x7D)) = some (0x0CA, .fault) := by decide +kernel
theorem test_latin1_row :
    decoded (exec (.decLatin1 4) (recordState referenceConfig 0xA84 0x636166E9))
      = some (0x006, [0x63, 0x61, 0x66, 0xE9]) := by decide +kernel
theorem test_badid11_row :
    ended (exec (.decBadId11 1) (recordState referenceConfig 0xAC1 1)) = some (0x09A, .fault) := by decide +kernel
theorem test_badid12_row_zero :
    decoded (exec (.decBadId12to15 12 1) (recordState referenceConfig 0xB01 0)) = some (0x006, []) := by decide +kernel

/-! ## The host port and the interface -/

/-- The byte unpacker of an id 0 record writes BYTES and nbytes (10 R41; the record of 95 section 2.7). -/
theorem test_byte_unpacker_writes_count :
    (arrows 4 (recordState referenceConfig 0x802 0xCEA9)).nbytes = 2 ∧
    (arrows 4 (recordState referenceConfig 0x802 0xCEA9)).bytes.toList.take 2 = [0xCE, 0xA9] := by decide +kernel
/-- The serialiser's arrow writes the bytes of the string and no other entry (44 R232). -/
theorem test_serialiser_arrow_keeps_the_rest :
    (arrow { stringState referenceConfig [0x03A9] with fsm := .encUtf8, bytes := Vector.replicate 63 7 }).bytes.toList.take 4
      = [0xCE, 0xA9, 7, 7] := by decide +kernel

/-- A write to PAYLOAD3 stores the bits below P (95 section 2.4). -/
theorem test_payload_mask :
    readAfter (step (idleState referenceConfig [.host (.write 0x4C 4 0xFFFFFFFF)])) (.payload 3) = some 0x0000FFFF := by
  decide +kernel
/-- A write while BUSY sets OVR (95 program 5). -/
theorem test_write_while_busy :
    readAfter (step { stringState referenceConfig (ascii "A") with bus := [.host (.write 0x0C 4 5)] }) .status
      = some 0x101 := by decide +kernel
/-- FAULT ignores ENCODE (95 section 2.10). -/
theorem test_fault_ignores_encode :
    readAfter (step (faultState referenceConfig [.host (.write 0 4 1)])) .status = some 0x09A := by decide +kernel
/-- An access outside the register space stops by name. -/
theorem test_outside_register_space :
    (match step (idleState referenceConfig [.host (.read 0x1000 4)]) with
      | .fault (.outsideRegisterSpace a) => a
      | .next _ | .refused _ => 0) = 0x1000 := by decide +kernel
/-- A byte access has no step, while reset is asserted as at any other time (20 R64). -/
theorem test_byte_access_refused_in_reset :
    (match step { idleState referenceConfig [.host (.read 0x004 1)] with inReset := true } with
      | .refused (.accessSize n) => n
      | .next _ | .fault _ | .refused _ => 0) = 1 := by decide +kernel
/-- The word of DEC.UPPER runs as the first instruction after reset. -/
theorem test_fetch_word : ended (step (State.reset.withFetchWord 12 0x8C1)) = some (0x006, .idle) := by decide +kernel
/-- The two grains agree on a short string. -/
theorem test_grains_agree :
    encoded (.next (arrows 4 (stringState referenceConfig [0x41]))) = some (0x006, 0xA81, 0x41) := by decide +kernel

/-! ## Hypotheses that are met

One theorem for each statement that has hypotheses: a concrete state and operands, for each clause, at boundary values
where a clause has a range. -/

/-- A legal choice of the parameters other than the reference one: P = 16, with the space at 0x1000. -/
def smallConfig : Config := { referenceConfig with p := 16, base := 0x1000 }

theorem test_smallConfig_legal : Config.legal smallConfig = true := by decide +kernel

theorem witness_EncodeThenDecodeIsIdentity : ∃ i : Instr, i.wellFormed = true ∧ formatOf i = .hdr :=
  ⟨.decBadId12to15 12 63, by decide⟩

theorem witness_CommandDecoderMatchesLowTwoBits :
    ∃ v0 v1 v2 v3 : Word, v0 &&& 3#32 = 0#32 ∧ v1 &&& 3#32 = 1#32 ∧ v2 &&& 3#32 = 2#32 ∧ v3 &&& 3#32 = 3#32 :=
  ⟨0xFFFFFFFC, 1, 0xFFFFFFFE, 0xFFFFFFFF, by decide⟩

theorem witness_HeaderFieldsSelectTheirRow : ∃ id id' : BitVec 4, 12 ≤ id.toNat ∧ id = 12 ∧ 12 ≤ id'.toNat ∧ id' = 15 :=
  ⟨12, 15, by decide⟩

theorem witness_StepRunsTheFetchedInstruction :
    (∃ (s : State) (rest : List Event) (i : Instr), s.bus = .engine :: rest ∧ s.inReset = false ∧ s.status.busy = true ∧
      opMatchesFsm s = true ∧ s.fsm = .encGate ∧
      Sys2Proof.decode .cmd (bytesOfWord (s.op.setWidth 32)) = .ok i) ∧
    (∃ (s : State) (i : Instr), s.bus = [] ∧ s.inReset = false ∧ s.status.busy = true ∧ opMatchesFsm s = true ∧
      s.fsm = .decCheck ∧ Sys2Proof.decode .cmd (bytesOfWord (s.op.setWidth 32)) = .ok i) ∧
    (∃ (s : State) (rest : List Event) (i : Instr), s.bus = .engine :: rest ∧ s.inReset = false ∧ s.status.busy = true ∧
      s.fsm = .decCheck ∧ Sys2Proof.decode .hdr (bytesOfWord (s.hdr.setWidth 32)) = .ok i) ∧
    (∃ (s : State) (rest : List Event) (v : Word) (i : Instr), s.bus = .host (.write s.cfg.base 4 v) :: rest ∧
      s.inReset = false ∧ s.status.busy = false ∧ s.status.fault = false ∧ v &&& 3#32 = 0#32 ∧
      Sys2Proof.decode .cmd (bytesOfWord v) = .ok i) :=
  ⟨⟨{ stringState smallConfig [] with bus := [.engine] }, [], .encode, rfl, rfl, rfl, rfl, rfl, rfl⟩,
   ⟨recordState smallConfig 0x8C1 1, .decode, rfl, rfl, rfl, rfl, rfl, rfl⟩,
   ⟨{ recordState smallConfig 0x8C1 1 with bus := [.engine] }, [], .decUpper 1, rfl, rfl, rfl, rfl, rfl⟩,
   ⟨idleState smallConfig [.host (.write 0x1000 4 0xFFFFFFFC)], [], 0xFFFFFFFC, .nop, rfl, rfl, rfl, rfl, by decide, rfl⟩⟩

theorem witness_CommandWriteStartsItsCommand :
    (∃ s : State, s.bus = [.host (.write s.cfg.base 4 1)] ∧ s.inReset = false ∧ s.status.busy = true) ∧
    (∃ s : State, s.bus = [.host (.write s.cfg.base 4 1)] ∧ s.inReset = false ∧ s.status.busy = false ∧
      s.status.fault = true) ∧
    (∃ (s : State) (v : Word), s.bus = [.host (.write s.cfg.base 4 v)] ∧ s.inReset = false ∧ s.status.busy = false ∧
      s.status.fault = false ∧ v.extractLsb' 0 2 = 0#2) ∧
    (∃ (s : State) (v : Word), s.bus = [.host (.write s.cfg.base 4 v)] ∧ s.inReset = false ∧ s.status.busy = false ∧
      s.status.fault = false ∧ v.extractLsb' 0 2 ≠ 0#2) :=
  ⟨⟨{ stringState smallConfig [] with bus := [.host (.write 0x1000 4 1)] }, by decide⟩,
   ⟨faultState smallConfig [.host (.write 0x1000 4 1)], by decide⟩,
   ⟨idleState smallConfig [.host (.write 0x1000 4 0xFFFFFFFC)], 0xFFFFFFFC, by decide⟩,
   ⟨idleState smallConfig [.host (.write 0x1000 4 5)], 5, by decide⟩⟩

theorem witness_ReservedCommandHaltsTheEngine :
    ∃ (s : State) (v : Word), s.bus = [.host (.write s.cfg.base 4 v), .engine] ∧ s.inReset = false ∧
      s.status.busy = false ∧ s.status.fault = false ∧ v.extractLsb' 0 2 = 3#2 :=
  ⟨idleState smallConfig [.host (.write 0x1000 4 3), .engine], 3, by decide⟩

theorem witness_HostProtocolErrors :
    (∃ (s : State) (off : Nat) (v : Word), off < 4096 ∧ off % 4 = 0 ∧ s.inReset = false ∧
      s.bus = [.host (.write (s.cfg.base + off) 4 v)] ∧ s.status.busy = true) ∧
    (∃ (s : State) (off : Nat), off < 4096 ∧ off % 4 = 0 ∧ s.inReset = false ∧
      s.bus = [.host (.read (s.cfg.base + off) 4)] ∧ s.status.busy = true) ∧
    (∃ (s : State) (off : Nat) (v : Word), off < 4096 ∧ off % 4 = 0 ∧ s.inReset = false ∧
      s.bus = [.host (.write (s.cfg.base + off) 4 v)] ∧ s.status.busy = false ∧
      (regAt off = .status ∨ regAt off = .reserved)) ∧
    (∃ (s : State) (off size : Nat) (v : Word), off < 4096 ∧ s.inReset = false ∧ (size ≠ 4 ∨ off % 4 ≠ 0) ∧
      s.bus = [.host (.write (s.cfg.base + off) size v)]) ∧
    (∃ (s : State) (off size : Nat), off < 4096 ∧ s.inReset = false ∧ (size ≠ 4 ∨ off % 4 ≠ 0) ∧
      s.bus = [.host (.read (s.cfg.base + off) size)]) :=
  ⟨⟨{ stringState smallConfig [] with bus := [.host (.write 0x1FFC 4 7)] }, 0xFFC, 7, by decide⟩,
   ⟨{ stringState smallConfig [] with bus := [.host (.read 0x1004 4)] }, 4, by decide⟩,
   ⟨idleState smallConfig [.host (.write 0x1FFC 4 7)], 0xFFC, 7, by decide⟩,
   ⟨idleState smallConfig [.host (.write 0x1FFF 4 7)], 0xFFF, 4, 7, by decide⟩,
   ⟨idleState smallConfig [.host (.read 0x1000 8)], 0, 8, by decide⟩⟩

theorem witness_RegisterMap :
    ∀ off ∈ [0x018, 0x03C, 0x080, 0x0FC, 0x300, 0xFFC], off < 4096 ∧ off % 4 = 0 ∧
      (0x018 ≤ off ∧ off < 0x040 ∨ 0x080 ≤ off ∧ off < 0x100 ∨ 0x300 ≤ off) := by decide

theorem witness_HostReadChangesNoRegister :
    ∃ (s : State) (rest : List Event) (off : Nat), off < 4096 ∧ off % 4 = 0 ∧ s.inReset = false ∧
      s.bus = .host (.read (s.cfg.base + off) 4) :: rest ∧ s.cfg.p < 1024 :=
  ⟨idleState smallConfig [.host (.read 0x12FC 4), .wait], [.wait], 0x2FC, by decide⟩

theorem witness_HostWriteStoresOneRegister :
    ∃ (s : State) (off : Nat) (v : Word), off < 4096 ∧ off % 4 = 0 ∧ off ≠ 0 ∧ s.inReset = false ∧
      s.bus = [.host (.write (s.cfg.base + off) 4 v)] ∧ s.status.busy = false ∧ regAt off = .charIn 63 :=
  ⟨idleState smallConfig [.host (.write 0x11FC 4 0x41)], 0x1FC, 0x41, by decide⟩

theorem witness_FaultStateIsLeftOnlyByReset :
    (∃ s t : State, s.fsm = .fault ∧ s.status.fault = true ∧ s.status.busy = false ∧ step s = .next t) ∧
    ∀ bus : List Event, bus ∈ [[.host (.write 0x1000 4 1)], [.host (.write 0x1010 4 0x8C1)], [.host (.read 0x1004 4)],
      [.engine], [.tick], []] →
      (faultState smallConfig bus).fsm = .fault ∧ (faultState smallConfig bus).status.fault = true ∧
      (faultState smallConfig bus).status.busy = false ∧ (faultState smallConfig bus).inReset = false :=
  ⟨⟨faultState smallConfig [.resetAssert], _, rfl, rfl, rfl, rfl⟩, fun _ _ => ⟨rfl, rfl, rfl, rfl⟩⟩

theorem witness_ResetTable : ∃ c : Config, c.p < 1024 ∧ c.p = 504 := ⟨{ smallConfig with p := 504 }, by decide⟩

theorem witness_AssertedResetRestoresEverything :
    (∃ s : State, s.bus = [.resetAssert] ∧ s.status.busy = true) ∧
    (∃ s : State, s.inReset = true ∧ s.bus = [.wait]) ∧
    (∃ (s : State) (off : Nat) (v : Word), s.inReset = true ∧ off < 4096 ∧ off % 4 = 0 ∧
      s.bus = [.host (.write (s.cfg.base + off) 4 v)] ∧ off = 0xFFC) ∧
    (∃ s t : State, s.inReset = true ∧ step s = .next t ∧ s.bus.head? ≠ some .resetAssert ∧
      s.bus.head? ≠ some .resetRelease ∧ s.bus ≠ []) ∧
    (∃ s : State, s.bus = [.resetRelease]) :=
  ⟨⟨{ stringState smallConfig [] with bus := [.resetAssert] }, by decide⟩,
   ⟨{ idleState smallConfig [.wait] with inReset := true }, by decide⟩,
   ⟨{ idleState smallConfig [.host (.write 0x1FFC 4 5)] with inReset := true }, 0xFFC, 5, by decide⟩,
   ⟨{ idleState smallConfig [.tick] with inReset := true }, _, rfl, rfl, by decide, by decide, by decide⟩,
   ⟨idleState smallConfig [.resetRelease], rfl⟩⟩

theorem witness_StepKeepsTheInvariant : ∃ s t : State, Inv s ∧ s.status.busy = true ∧ step s = .next t :=
  ⟨{ stringState smallConfig (ascii "ABC") with bus := [.engine] }, _,
   { legal := test_smallConfig_legal
     status := ⟨by decide, by decide, by decide, by decide, by decide, by decide, by decide⟩
     op := rfl
     width := ⟨by decide, by decide⟩
     output := ⟨by decide, by decide, by decide +kernel⟩
     held := fun h => absurd h (by decide) },
   rfl, rfl⟩

theorem witness_StepKeepsTheParameters : ∃ s t : State, step s = .next t ∧ s.cfg = smallConfig :=
  ⟨idleState smallConfig [.resetAssert], _, rfl, rfl⟩

theorem witness_StatusWordAfterEachResult : ∃ st : Status, st.ovr = false ∧ st.fault = false := ⟨busyStatus, by decide⟩

theorem witness_ClassesAreDisjointSets :
    ∃ u v w : CodeUnit, (classify u).kind = .punct ∧ (classify v).kind = .accent ∧ (classify w).kind = .other :=
  ⟨0x40, 0xFF, 0xD7, by decide⟩

theorem witness_LutRoundTrip :
    (∃ (c : Config) (a : Alphabet) (u : CodeUnit) (code : Nat), Config.legal c = true ∧ a ∈ restrictedAlphabets ∧
      lutEnc c a (classify u) = .ok code ∧ lutDec c a code = some u ∧ code = 0x1A ∧
      (gridOf c a)[code]? = some (some (u.setWidth 8)) ∧ u.toNat ≤ 0xFF ∧
      ¬∃ k ∈ unresolved c a, marks[k]? = some u) ∧
    (∃ (c : Config) (a : Alphabet) (u : CodeUnit) (code k : Nat), Config.legal c = true ∧ a ∈ restrictedAlphabets ∧
      k ∈ unresolved c a ∧ marks[k]? = some u ∧ (gridOf c a)[code]? = some (some (u.setWidth 8)) ∧ u.toNat ≤ 0xFF) ∧
    (∃ (c : Config) (a : Alphabet) (u : CodeUnit) (code : Nat), Config.legal c = true ∧ a ∈ restrictedAlphabets ∧
      some (u.setWidth 8) ∉ gridOf c a ∧ (gridOf c a)[code]? = some none) :=
  ⟨⟨smallConfig, .upper, 0x5A, 0x1A, test_smallConfig_legal, by decide, by decide +kernel, by decide +kernel, rfl,
     by decide +kernel, by decide, by decide +kernel⟩,
   ⟨smallConfig, .date, 0x2E, 0xB, 2, test_smallConfig_legal, by decide, by decide, by decide, by decide +kernel,
     by decide⟩,
   ⟨smallConfig, .alphasym, 0x30, 0x3E, test_smallConfig_legal, by decide, by decide +kernel, by decide +kernel⟩⟩

theorem witness_BitRegisterArithmetic : ∃ p acc w : Nat, acc < 2 ^ p ∧ w ≤ 8 ∧ acc = 0xFFFF ∧ w = 8 :=
  ⟨16, 0xFFFF, 8, by decide⟩

theorem witness_PackClosedForm :
    ∃ (p w : Nat) (cs : List Nat), 8 ≤ p ∧ 4 ≤ w ∧ w ≤ 8 ∧ cs.length * w ≤ p ∧ ∀ c ∈ cs, c < 2 ^ w :=
  ⟨25, 5, [8, 5, 12, 12, 15], by decide⟩

theorem witness_PayloadMarshallingRoundTrip :
    ∃ (s : State) (a : Nat), Config.legal s.cfg = true ∧ a < 2 ^ s.cfg.p ∧ a = 0xFFFF ∧ payloadWordCount s.cfg ≤ 15 :=
  ⟨idleState smallConfig [], 0xFFFF, test_smallConfig_legal, by decide, rfl, by decide⟩

theorem witness_EncodeLengthGate :
    (∃ s : State, s.cfg.p / 4 < s.inLen.toNat ∧ s.inLen = 5) ∧
    (∃ s : State, 63 < s.inLen.toNat ∧ s.inLen = 64 ∧ s.cfg.p / 4 = 126) :=
  ⟨⟨{ stringState smallConfig [] with inLen := 5 }, by decide⟩,
   ⟨{ stringState { smallConfig with p := 504 } [] with inLen := 64 }, by decide⟩⟩

theorem witness_EncodeEmptyString : ∃ s : State, s.inLen = 0 ∧ s.fsm = .encGate := ⟨stringState smallConfig [], by decide⟩

theorem witness_EncodeLatin1WinsIfItFits :
    ∃ s : State, Config.legal s.cfg = true ∧ 1 ≤ s.inLen.toNat ∧ s.inLen.toNat ≤ s.cfg.p / 8 ∧
      ∀ k < s.inLen.toNat, (charAt s k).toNat ≤ 0xFF :=
  ⟨stringState smallConfig [0xFF, 0x00], test_smallConfig_legal, by decide, by decide, by decide +kernel⟩

theorem witness_EncodeFallsBackToUtf8 :
    (∃ s : State, Config.legal s.cfg = true ∧ 1 ≤ s.inLen.toNat ∧ s.inLen.toNat ≤ s.cfg.p / 8 ∧
      (∃ k < s.inLen.toNat, 0xFF < (charAt s k).toNat) ∧ utf8Serialise (stringUnits s) = none) ∧
    (∃ (s : State) (bs : List Byte), Config.legal s.cfg = true ∧ 1 ≤ s.inLen.toNat ∧ s.inLen.toNat ≤ s.cfg.p / 8 ∧
      (∃ k < s.inLen.toNat, 0xFF < (charAt s k).toNat) ∧ utf8Serialise (stringUnits s) = some bs ∧
      bs.length ≤ min (s.cfg.p / 8) 63) ∧
    (∃ (s : State) (bs : List Byte), Config.legal s.cfg = true ∧ 1 ≤ s.inLen.toNat ∧ s.inLen.toNat ≤ s.cfg.p / 8 ∧
      (∃ k < s.inLen.toNat, 0xFF < (charAt s k).toNat) ∧ utf8Serialise (stringUnits s) = some bs ∧
      min (s.cfg.p / 8) 63 < bs.length) :=
  ⟨⟨stringState smallConfig [0x41, 0xD800], test_smallConfig_legal, by decide, by decide, ⟨1, by decide +kernel⟩,
     by decide +kernel⟩,
   ⟨stringState smallConfig [0x03A9], [0xCE, 0xA9], test_smallConfig_legal, by decide, by decide, ⟨0, by decide +kernel⟩,
     by decide +kernel, by decide⟩,
   ⟨stringState smallConfig [0x20AC], [0xE2, 0x82, 0xAC], test_smallConfig_legal, by decide, by decide,
     ⟨0, by decide +kernel⟩, by decide +kernel, by decide⟩⟩

theorem witness_EncodePicksTheLowestAlphabet :
    (∃ (s : State) (a : Alphabet), Config.legal s.cfg = true ∧ s.inLen.toNat ≤ 63 ∧ s.inLen.toNat ≤ s.cfg.p / 4 ∧
      s.cfg.p / 8 < s.inLen.toNat ∧ a ∈ restrictedAlphabets ∧ s.inLen.toNat ≤ maxLength s.cfg a ∧
      admits s.cfg a (stringUnits s) = true ∧
      ∀ b ∈ restrictedAlphabets, alphabetId b < alphabetId a → s.inLen.toNat ≤ maxLength s.cfg b →
        admits s.cfg b (stringUnits s) = false) ∧
    (∃ s : State, Config.legal s.cfg = true ∧ s.inLen.toNat ≤ 63 ∧ s.inLen.toNat ≤ s.cfg.p / 4 ∧
      s.cfg.p / 8 < s.inLen.toNat ∧
      ∀ a ∈ restrictedAlphabets, s.inLen.toNat ≤ maxLength s.cfg a → admits s.cfg a (stringUnits s) = false) :=
  ⟨⟨stringState smallConfig (ascii "ABC"), .upper, test_smallConfig_legal, by decide +kernel⟩,
   ⟨stringState smallConfig (ascii "ABCD"), test_smallConfig_legal, by decide +kernel⟩⟩

theorem witness_InitialCandidates :
    (∃ a : Alphabet, a ∈ restrictedAlphabets) ∧
    ∃ c : Config, c.p = 112 ∧ ∀ L ∈ [15, 16, 17, 18, 19, 22, 23, 28], 15 ≤ L ∧ L ≤ 28 :=
  ⟨⟨.european, by decide⟩, { smallConfig with p := 112 }, by decide⟩

theorem witness_ContractFaultIsUnreachable :
    ∃ s t : State,
      (∀ cl ∈ properClasses, ∀ a ∈ restrictedAlphabets,
        candHas (keepMask cl) a = true → lutEnc s.cfg a cl ≠ .miss) ∧ exec .encode s = .next t := by
  refine ⟨stringState smallConfig (ascii "ABC"), _, fun cl hcl a ha hk => ?_, rfl⟩
  have h := (legal_grid smallConfig test_smallConfig_legal a ha).2
  simp only [gridMatchesKeep, List.all_eq_true] at h
  have h' := h cl hcl
  rw [hk] at h'
  have h'' : lutEnc smallConfig a cl ≠ .miss := by simpa using h'
  exact h''

theorem witness_EncodeFrame :
    (∃ s t : State, exec .encode s = .next t ∧ t.status.result = 0) ∧
    (∃ s t : State, exec .encode s = .next t ∧ t.status.result ≠ 0) ∧ (16384 : Nat) / 4 ≠ 1 :=
  ⟨⟨stringState smallConfig (ascii "ABC"), _, rfl, by decide +kernel⟩,
   ⟨stringState smallConfig (ascii "ABCD"), _, rfl, by decide +kernel⟩, by decide⟩

theorem witness_CommandsReadOnlyTheirOperands :
    (∃ s s' : State, s'.cfg = s.cfg ∧ s'.inLen = s.inLen ∧ (∀ k < s.inLen.toNat, charAt s' k = charAt s k) ∧
      s'.charIn ≠ s.charIn ∧ s'.acc ≠ s.acc ∧ s'.status ≠ s.status ∧ s'.outLen ≠ s.outLen) ∧
    (∃ s s' : State, s'.cfg = s.cfg ∧ s'.hdr = s.hdr ∧
      (∀ j < s.cfg.p, (s'.payload.getD (j / 32) 0).getLsbD (j % 32) = (s.payload.getD (j / 32) 0).getLsbD (j % 32)) ∧
      s'.payload ≠ s.payload ∧ s'.inLen ≠ s.inLen ∧ s'.status ≠ s.status) :=
  ⟨⟨stringState smallConfig (ascii "AB"),
     { stringState smallConfig (ascii "AB") with
       charIn := vectorOf 64 fun k => (ascii "ABC").getD k 0, acc := 9, outLen := 1
       status := { busyStatus with ovr := true } }, by decide +kernel⟩,
   ⟨recordState smallConfig 0xA82 0x41FF,
     { recordState smallConfig 0xA82 0x41FF with
       payload := payloadWords 0x10000000741FF, inLen := 3, status := { busyStatus with ovr := true } },
     by decide +kernel⟩⟩

theorem witness_ForeignTagChangesOnlyStatus : ∃ s : State, s.hdr.extractLsb' 10 2 ≠ 0b10#2 :=
  ⟨recordState smallConfig 0x445 3, by decide⟩

theorem witness_ZeroPayloadDecodesToEmpty : ∃ s : State, payloadValue s = 0 ∧ s.hdr.extractLsb' 10 2 = 0b10#2 :=
  ⟨recordState smallConfig 0xAC1 0, by decide +kernel⟩

theorem witness_UndefinedIdHaltsTheEngine :
    ∃ s s' : State, payloadValue s ≠ 0 ∧ s.hdr.extractLsb' 10 2 = 0b10#2 ∧ (s.hdr.extractLsb' 6 4).toNat = 11 ∧
      payloadValue s' ≠ 0 ∧ s'.hdr.extractLsb' 10 2 = 0b10#2 ∧ (s'.hdr.extractLsb' 6 4).toNat = 15 :=
  ⟨recordState smallConfig 0xAC1 1, recordState smallConfig 0xBC1 1, by decide +kernel⟩

theorem witness_ExcessLengthHaltsTheEngine :
    ∃ (s : State) (a : Alphabet) (len : BitVec 6), payloadValue s ≠ 0 ∧ s.cfg.p / alphabetStep a < len.toNat ∧
      s.hdr = headerWord 0b10#2 (BitVec.ofNat 4 (alphabetId a)) len :=
  ⟨recordState smallConfig 0x8C4 1, .upper, 4, by decide +kernel⟩

theorem witness_RestrictedRowsUnpackEachGroup :
    ∃ (s : State) (a : Alphabet) (len : BitVec 6) (us : List CodeUnit), a ∈ restrictedAlphabets ∧
      payloadValue s ≠ 0 ∧ len.toNat ≤ s.cfg.p / alphabetStep a ∧ us.length = len.toNat ∧
      ∀ k < len.toNat,
        lutDec s.cfg a (groupAt (alphabetStep a) len.toNat (payloadValue s) k) = some (us.getD k 0) :=
  ⟨recordState smallConfig 0x8C3 0x443, .upper, 3, ascii "ABC", by decide +kernel⟩

theorem witness_CodeWithoutInverseHaltsTheEngine :
    ∃ (s : State) (a : Alphabet) (len : BitVec 6), a ∈ restrictedAlphabets ∧ payloadValue s ≠ 0 ∧
      len.toNat ≤ s.cfg.p / alphabetStep a ∧
      ∃ k < len.toNat, lutDec s.cfg a (groupAt (alphabetStep a) len.toNat (payloadValue s) k) = none :=
  ⟨recordState smallConfig 0x881 0xB, .date, 1, by decide +kernel⟩

theorem witness_Latin1RowCopiesBytes :
    ∃ (s : State) (len : BitVec 6), payloadValue s ≠ 0 ∧ len.toNat ≤ s.cfg.p / 8 ∧ len = 2 :=
  ⟨recordState smallConfig 0xA82 0xFFFF, 2, by decide +kernel⟩

theorem witness_Utf8RowDeserialisesBytes :
    (∃ (s : State) (len : BitVec 6) (us : List CodeUnit), payloadValue s ≠ 0 ∧ len.toNat ≤ s.cfg.p / 8 ∧
      utf8Deserialise ((List.range len.toNat).map fun k =>
        BitVec.ofNat 8 (groupAt 8 len.toNat (payloadValue s) k)) = some us ∧ 0 < len.toNat) ∧
    (∃ (s : State) (len : BitVec 6), payloadValue s ≠ 0 ∧ len.toNat ≤ s.cfg.p / 8 ∧
      utf8Deserialise ((List.range len.toNat).map fun k =>
        BitVec.ofNat 8 (groupAt 8 len.toNat (payloadValue s) k)) = none) :=
  ⟨⟨recordState smallConfig 0x802 0xCEA9, 2, [0x03A9], by decide +kernel⟩,
   ⟨recordState smallConfig 0x802 0xC0AF, 2, by decide +kernel⟩⟩

theorem witness_BitsAboveTheLastGroupAreIgnored :
    ∃ (s : State) (a : Alphabet) (len : BitVec 6) (v : Vector Word 16), payloadValue s ≠ 0 ∧
      payloadValue { s with payload := v } ≠ 0 ∧ s.payload ≠ v ∧
      payloadValue s % 2 ^ (len.toNat * alphabetStep a)
        = payloadValue { s with payload := v } % 2 ^ (len.toNat * alphabetStep a) :=
  ⟨recordState smallConfig 0x841 0x35, .numerical, 1, payloadWords 5, by decide +kernel⟩

theorem witness_DecodeFrame :
    (∃ (i : Instr) (s t : State), i = .decode ∧ exec i s = .next t ∧ t.status.result ≠ 0) ∧
    (∃ (i : Instr) (s t : State), formatOf i = .hdr ∧ exec i s = .next t ∧ t.status.result = 0) :=
  ⟨⟨.decode, recordState smallConfig 0x445 3, finish .foreign (recordState smallConfig 0x445 3), rfl, rfl,
     by decide +kernel⟩,
   ⟨.decUpper 3, recordState smallConfig 0x8C3 0x443, _, rfl, rfl, by decide +kernel⟩⟩

theorem witness_EncodeThenDecodeGivesTheString :
    (∃ s t : State, Config.legal s.cfg = true ∧ exec .encode s = .next t ∧ t.status.result = 0 ∧ payloadValue t ≠ 0) ∧
    (∃ s t : State, Config.legal s.cfg = true ∧ exec .encode s = .next t ∧ t.status.result = 0 ∧ s.inLen = 0) ∧
    (∃ s t : State, Config.legal s.cfg = true ∧ exec .encode s = .next t ∧ t.status.result = 0 ∧ s.inLen = 1 ∧
      payloadValue t = 0) :=
  ⟨⟨stringState smallConfig (ascii "ABC"), _, test_smallConfig_legal, rfl, by decide +kernel, by decide +kernel⟩,
   ⟨stringState smallConfig [], _, test_smallConfig_legal, rfl, by decide +kernel, by decide⟩,
   ⟨stringState smallConfig [0x0000], _, test_smallConfig_legal, rfl, by decide +kernel, by decide, by decide +kernel⟩⟩

theorem witness_OnlyNulAndZeroStringsCollide :
    ∃ s t : State, Config.legal s.cfg = true ∧
      s.cfg = { referenceConfig with p := s.cfg.p, base := s.cfg.base } ∧ exec .encode s = .next t ∧
      t.status.result = 0 ∧ 0 < s.inLen.toNat ∧ payloadValue t = 0 :=
  ⟨stringState smallConfig (ascii "000"), _, test_smallConfig_legal, rfl, rfl, by decide +kernel, by decide,
   by decide +kernel⟩

theorem witness_Utf8RoundTrips :
    (∃ us : List CodeUnit, (∀ k < us.length, unpairedAt us k = false) ∧ us = [0xD83D, 0xDE00]) ∧
    (∃ (bs : List Byte) (us : List CodeUnit), utf8Deserialise bs = some us ∧ bs.length = 4) ∧
    (∃ (us : List CodeUnit) (bs : List Byte), utf8Serialise us = some bs ∧ ∃ u ∈ us, 0xFF < u.toNat) ∧
    (∃ u : CodeUnit, u.toNat ≤ 0x7F ∧ u = 0x7F) ∧
    (∃ u : CodeUnit, 0x80 ≤ u.toNat ∧ u.toNat ≤ 0x7FF ∧ u = 0x7FF) ∧
    (∃ u : CodeUnit, 0x800 ≤ u.toNat ∧ ¬(0xD800 ≤ u.toNat ∧ u.toNat ≤ 0xDFFF) ∧ u = 0xE000) ∧
    (∃ u v : CodeUnit, 0xD800 ≤ u.toNat ∧ u.toNat ≤ 0xDBFF ∧ 0xDC00 ≤ v.toNat ∧ v.toNat ≤ 0xDFFF ∧ u = 0xDBFF) ∧
    (∃ (us vs : List CodeUnit) (bs cs : List Byte), utf8Serialise us = some bs ∧ utf8Serialise vs = some cs ∧
      us.length = 1 ∧ vs.length = 2) :=
  ⟨⟨[0xD83D, 0xDE00], by decide⟩, ⟨[0xF0, 0x9F, 0x98, 0x80], [0xD83D, 0xDE00], by decide +kernel⟩,
   ⟨[0x0100], [0xC4, 0x80], by decide +kernel, 0x0100, by simp, by decide⟩, ⟨0x7F, by decide⟩, ⟨0x7FF, by decide⟩,
   ⟨0xE000, by decide⟩, ⟨0xDBFF, 0xDFFF, by decide⟩,
   ⟨[0x03A9], [0xD83D, 0xDE00], [0xCE, 0xA9], [0xF0, 0x9F, 0x98, 0x80], by decide +kernel⟩⟩

theorem witness_EncodeArrowsReachTheCommandsResult :
    ∃ s : State, s.fsm = .encGate ∧ s.op = 1 ∧ s.status.busy = true := ⟨stringState smallConfig (ascii "ABC"), by decide⟩

theorem witness_DecodeArrowsReachTheCommandsResult :
    ∃ s : State, s.fsm = .decCheck ∧ s.op = 2 ∧ s.status.busy = true := ⟨recordState smallConfig 0x8C3 0x443, by decide⟩

theorem witness_ArrowsHideResultsUntilTheLast :
    ∃ s : State, s.status.busy = true ∧ (arrow s).status.busy = true ∧ (arrow s).fsm = .encClassify :=
  ⟨stringState smallConfig (ascii "ABC"), by decide +kernel⟩

theorem witness_LoadStatementsPlaceTheirOperands :
    (∃ (s : State) (us : List CodeUnit), us.length = 64 ∧ s.inReset = false ∧ s.status.busy = false ∧
      s.bus = expandStmt s.cfg (.loadStr us)) ∧
    (∃ (s : State) (h : Word) (a : Nat), Config.legal s.cfg = true ∧ a < 2 ^ s.cfg.p ∧ a = 0xFFFF ∧ s.inReset = false ∧
      s.status.busy = false ∧ s.bus = expandStmt s.cfg (.loadRec h a)) :=
  ⟨⟨idleState smallConfig (expandStmt smallConfig (.loadStr (List.replicate 64 0x41))), List.replicate 64 0x41,
     by decide, rfl, rfl, rfl⟩,
   ⟨idleState smallConfig (expandStmt smallConfig (.loadRec 0xFFF 0xFFFF)), 0xFFF, 0xFFFF, test_smallConfig_legal,
     by decide, rfl, rfl, rfl, rfl⟩⟩

theorem witness_CanonicalSequenceReturnsTheString :
    ∃ (s : Nat → State) (us : List CodeUnit),
      (∀ n, Config.legal (s n).cfg = true ∧ (s n).inReset = false ∧ (s n).status.busy = false ∧
        (s n).status.fault = false) ∧
      1 ≤ us.length ∧ us.length = (s 0).cfg.p / 8 ∧ (∀ u ∈ us, u.toNat ≤ 0xFF) ∧ (∃ u ∈ us, u ≠ 0) ∧
      (s 0).bus =
        referenceSchedule (s 0).cfg (expandScript (s 0).cfg [.loadStr us, .encode, .wait, .rd .status]) ∧
      (s 1).bus =
        referenceSchedule (s 1).cfg (expandScript (s 1).cfg [.loadRec 0xA82 0x41FF, .decode, .wait, .rd .status]) ∧
      (s 2).bus = referenceSchedule (s 2).cfg
        (expandScript (s 2).cfg [.loadStr us, .encode, .wait, .rd .status, .decode, .wait, .rd .status]) ∧
      0x800 + 64 * 10 + us.length = 0xA82 ∧
      ∑ k ∈ Finset.range us.length, (us.getD k 0).toNat * 2 ^ ((us.length - 1 - k) * 8) = 0x41FF :=
  ⟨fun n => idleState smallConfig (referenceSchedule smallConfig (expandScript smallConfig (match n with
     | 0 => [.loadStr [0x41, 0xFF], .encode, .wait, .rd .status]
     | 1 => [.loadRec 0xA82 0x41FF, .decode, .wait, .rd .status]
     | _ => [.loadStr [0x41, 0xFF], .encode, .wait, .rd .status, .decode, .wait, .rd .status]))), [0x41, 0xFF],
   fun _ => ⟨test_smallConfig_legal, rfl, rfl, rfl⟩, by decide, by decide, by simp, ⟨0x41, by simp, by decide⟩,
   by decide +kernel, by decide +kernel, by decide +kernel, by decide, by decide +kernel⟩

theorem witness_WaitEndsWithTheCommand :
    ∃ (s : State) (rest : List Event), s.bus = .wait :: rest ∧ s.inReset = false ∧ s.status.busy = true ∧
      s.fsm = .encGate ∧ opMatchesFsm s = true :=
  ⟨{ stringState smallConfig (ascii "ABC") with bus := [.wait] }, [], by decide⟩

theorem witness_ByteUnpackerFillsBytesAndCount :
    ∃ s s' : State, s.fsm = .decCheck ∧ hdrTag s.hdr = 0b10#2 ∧ hdrId s.hdr = 0#4 ∧ payloadValue s ≠ 0 ∧
      (hdrLen s.hdr).toNat = s.cfg.p / 8 ∧ s'.fsm = .decCheck ∧ hdrTag s'.hdr = 0b10#2 ∧ hdrId s'.hdr = 0#4 ∧
      payloadValue s' ≠ 0 ∧ (hdrLen s'.hdr).toNat = 0 :=
  ⟨recordState smallConfig 0x802 0xCEA9, recordState smallConfig 0x800 1, by decide +kernel⟩

end Sys2Proof.Tests
end

section
/-! PROOFS. The rules that the statements on the step, the host port and reset rest on: what a vector, a register and a
decoded word hold, how a command ends, and what a step can do. -/

namespace Sys2Proof.Machine

/-! ### Vectors and words -/

theorem getD_setIfInBounds {α : Type} {n : Nat} (v : Vector α n) (j k : Nat) (x d : α) :
    (v.setIfInBounds j x).getD k d = if j = k ∧ k < n then x else v.getD k d := by
  by_cases hk : k < n
  · by_cases hj : j = k <;> simp [Vector.getD, hk, hj]
  · simp [Vector.getD, hk]

theorem getD_replicate {α : Type} (n k : Nat) (x d : α) :
    (Vector.replicate n x).getD k d = if k < n then x else d := by
  by_cases hk : k < n <;> simp [Vector.getD, hk]

/-- The four byte lanes of a word, put together again (20 R63). -/
theorem wordOfBytes_lanes (w : Word) :
    wordOfBytes (field w 0 8) (field w 8 8) (field w 16 8) (field w 24 8) = w := by
  ext k hk
  simp only [wordOfBytes, field]
  grind

theorem decode_bytesOfWord (f : Format) (w : Word) : Sys2Proof.decode f (bytesOfWord w) = .ok (decodeWord f w) := by
  simp [Sys2Proof.decode, bytesOfWord, wordOfBytes_lanes]

/-! ### The row of a header -/

/-- Every header dispatches to one of the sixteen rows, never to a command word (30 R85). -/
theorem formatOf_decodeHdr (h : BitVec 12) : formatOf (decodeHdr h) = .hdr := by
  dsimp only [decodeHdr]
  split
  · rfl
  · rfl
  · split <;> rfl
  · rfl

/-- DECODE runs the row of the header in HDR (30 R85). -/
theorem exec_decode (s : State) : exec .decode s = exec (decodeHdr s.hdr) s := by
  change execDecode s = _
  have hrow := formatOf_decodeHdr s.hdr
  unfold execDecode
  revert hrow
  cases decodeHdr s.hdr with
  | nop | encode | decode | reservedCmd => intro hrow; cases hrow
  | _ => intro _; rfl

/-! ### Lengths of decoded strings (43 R210, 44 R234) -/

theorem utf8Conts_length_le (rs : List (Nat × Nat)) (cp r : Nat) (bs : List Byte)
    (h : utf8Conts rs cp bs = some r) : rs.length ≤ bs.length := by
  induction rs generalizing cp bs with
  | nil => exact Nat.zero_le _
  | cons _ rs ih =>
    cases bs with
    | nil => cases h
    | cons b bs =>
      unfold utf8Conts at h
      split at h
      · exact Nat.succ_le_succ (ih _ _ h)
      · cases h

/-- A scalar value becomes at most two code units, and one if it is below 0x10000 (44 R236). -/
theorem utf16OfScalar_length (cp : Nat) : (utf16OfScalar cp).length = if cp ≤ 0xFFFF then 1 else 2 := by
  unfold utf16OfScalar
  split <;> rfl

/-- A scalar value uses bytes that are there, and at least as many as it has code units: two code units come from more
than one byte (44 R235, R236). -/
theorem utf8Scalar_used (bs : List Byte) (cp used : Nat) (h : utf8Scalar bs = some (cp, used)) :
    (utf16OfScalar cp).length ≤ used ∧ used ≤ bs.length := by
  cases bs with
  | nil => cases h
  | cons b bs =>
    simp only [utf8Scalar] at h
    split at h
    · cases h
    · next r _ =>
      obtain ⟨cp', hconts, hpair⟩ := Option.map_eq_some_iff.1 h
      cases hpair
      refine ⟨?_, Nat.succ_le_succ (utf8Conts_length_le _ _ _ _ hconts)⟩
      rw [utf16OfScalar_length]
      cases hr : r.conts with
      | nil =>
        have hcp : b.toNat = cp := by simpa [hr, utf8Conts, utf8LeadBits] using hconts
        have hb := b.isLt
        simp [show cp ≤ 0xFFFF by omega]
      | cons _ _ => split <;> simp

theorem utf8Loop_length_le (fuel : Nat) (bs : List Byte) (us : List CodeUnit) (h : utf8Loop fuel bs = some us) :
    us.length ≤ bs.length := by
  induction fuel generalizing bs us with
  | zero =>
    cases bs with
    | nil => cases h; exact Nat.le_refl 0
    | cons _ _ => cases h
  | succ fuel ih =>
    cases bs with
    | nil => cases h; exact Nat.le_refl 0
    | cons b bs =>
      unfold utf8Loop at h
      split at h
      · cases h
      · next cp used hscalar =>
        obtain ⟨rest, hrest, rfl⟩ := Option.map_eq_some_iff.1 h
        obtain ⟨hunits, hused⟩ := utf8Scalar_used _ _ _ hscalar
        have hdrop := ih _ _ hrest
        rw [List.length_drop] at hdrop
        rw [List.length_append]
        omega

/-- The deserialised string has at most one code unit for each byte (44 R234). -/
theorem utf8Deserialise_length_le (bs : List Byte) (us : List CodeUnit) (h : utf8Deserialise bs = some us) :
    us.length ≤ bs.length := utf8Loop_length_le _ _ _ h

/-- What unpacking can come to (43 R206 to R209): a string of at most LEN characters, or one of two fatal codes. -/
theorem decodePayload_cases (c : Config) (a : Alphabet) (len payload : Nat) :
    (∃ us, decodePayload c a len payload = .success us ∧ us.length ≤ len) ∨
    decodePayload c a len payload = .fatal .errBadUtf8 ∨ decodePayload c a len payload = .fatal .errBadCode := by
  have hgroups := unpackGroups_length (alphabetStep a) len payload []
  unfold decodePayload
  cases a with
  | latin1 => exact .inl ⟨_, rfl, by simp [hgroups]⟩
  | utf8 =>
    dsimp only
    split
    · exact .inr (.inl rfl)
    · next hus => exact .inl ⟨_, rfl, by simpa [hgroups] using utf8Deserialise_length_le _ _ hus⟩
  | _ =>
    dsimp only
    split
    · exact .inr (.inr rfl)
    · next hus => exact .inl ⟨_, rfl, by simp [decodeGroups_length _ _ _ _ hus, hgroups]⟩

/-! ### The results of commands (60 R250, R251) -/

theorem resultLegal_resultBits (r : ResultCode) : resultLegal (resultBits r) = true := by cases r <;> rfl

theorem resultBits_eq_zero (r : ResultCode) : resultBits r = 0#4 ↔ r = .success := by cases r <;> decide

theorem tryAll_fatal_code (c : Config) (L : Nat) (cand : BitVec 9) (cls : List CharClass) (as : List Alphabet)
    (r : ResultCode) (h : tryAll c L cand cls as = .fatal r) : r = .errContract := by
  induction as with
  | nil => cases h
  | cons a as ih =>
    unfold tryAll at h
    split at h
    · split at h
      · cases h
      · exact ih h
      · cases h; rfl
    · exact ih h

/-- A selection is fatal only with ERR_BAD_UTF16 or ERR_CONTRACT (41 R156). -/
theorem select_fatal_code (c : Config) (L : Nat) (us : List CodeUnit) (r : ResultCode)
    (h : select c L us = .fatal r) : r = .errBadUtf16 ∨ r = .errContract := by
  unfold select at h
  split at h
  · cases h
  split at h
  · cases h
  split at h
  · split at h
    · cases h
    · unfold selectUtf8 at h
      split at h
      · cases h; exact .inl rfl
      · split at h <;> cases h
  · exact .inr (tryAll_fatal_code _ _ _ _ _ r h)

/-! ### How a command ends -/

/-- The ends of a command (42 R183, 43 R210, 60 R252, R254): a normal result with nothing stored, a fatal one, a record
that fits the payload block, a string that fits OUT_LEN. -/
inductive CommandEnd (s : State) : State → Prop where
  | normal (r : ResultCode) (hr : (resultBits r).toNat < 8) : CommandEnd s (finish r s)
  | fatal (r : ResultCode) (hr : 8 ≤ (resultBits r).toNat) : CommandEnd s (raiseFatal r s)
  | encoded (h : BitVec 12) (acc : Nat) (hacc : 8 ≤ s.cfg.p → acc < 2 ^ s.cfg.p) : CommandEnd s (commitEncode h acc s)
  | decoded (us : List CodeUnit) (hus : us.length ≤ 63) : CommandEnd s (commitDecode us s)

theorem CommandEnd.cfg {s t : State} (h : CommandEnd s t) : t.cfg = s.cfg := by cases h <;> rfl

/-- ENCODE ends with the record selected, NOFIT or a fatal result (42 R182 to R185). -/
theorem exec_encode_end (s t : State) (h : exec .encode s = .next t) : CommandEnd s t := by
  cases h
  cases hsel : select s.cfg (stringLength s) (stringUnits s) with
  | success a len acc => exact .encoded _ _ fun hp => select_success_lt _ _ _ _ _ _ hp hsel
  | nofit => exact .normal .nofit (by decide)
  | fatal r =>
    refine .fatal r ?_
    obtain rfl | rfl := select_fatal_code _ _ _ _ hsel <;> decide

theorem rowBadId_end (s : State) : CommandEnd s (rowBadId s) := by
  obtain ⟨_, h⟩ | ⟨_, h⟩ := rowBadId_cases s
  · rw [h]; exact .decoded [] (Nat.zero_le _)
  · rw [h]; exact .fatal .errBadId (by decide)

theorem rowAlphabet_end (a : Alphabet) (len : BitVec 6) (s : State) : CommandEnd s (rowAlphabet a len s) := by
  obtain ⟨_, h⟩ | ⟨_, _, h⟩ | ⟨_, _, h⟩ := rowAlphabet_cases a len s
  · rw [h]; exact .decoded [] (Nat.zero_le _)
  · rw [h]; exact .fatal .errBadLength (by decide)
  · rw [h]
    obtain ⟨us, hr, hus⟩ | hr | hr := decodePayload_cases s.cfg a len.toNat (payloadValue s) <;> rw [hr]
    · exact .decoded us (by omega)
    · exact .fatal .errBadUtf8 (by decide)
    · exact .fatal .errBadCode (by decide)

/-- Every row a header dispatches to ends the command (43 R200). -/
theorem exec_row_end (i : Instr) (s t : State) (hi : formatOf i = .hdr) (h : exec i s = .next t) :
    CommandEnd s t := by
  cases i with
  | nop | encode | decode | reservedCmd => cases hi
  | decForeign00 | decForeign01 | decForeign11 => cases h; exact .normal .foreign (by decide)
  | decBadId11 | decBadId12to15 => cases h; exact rowBadId_end s
  | _ => cases h; exact rowAlphabet_end _ _ s

theorem exec_decode_end (s t : State) (h : exec .decode s = .next t) : CommandEnd s t :=
  exec_row_end _ s t (formatOf_decodeHdr s.hdr) (exec_decode s ▸ h)

/-! ### What a step can do -/

/-- What an event does to the block: reset, an access of the host, or a turn of the engine (70 R280, R287, R288). While
reset is asserted neither host nor engine does anything. -/
inductive StepEffect (s : State) : State → Prop where
  | resetAsserted : StepEffect s (assertReset s)
  | resetReleased : StepEffect s { s with inReset := false }
  | nothing : StepEffect s s
  | read (r : Reg) : StepEffect s (hostRead r s)
  | polled : StepEffect s (waitStep s)
  | dropped (released : s.inReset = false) : StepEffect s (dropWrite s)
  | written (released : s.inReset = false) (r : Reg) (v : Word) : StepEffect s (writeReg s r v)
  | started (released : s.inReset = false) (nofault : s.status.fault = false) (op : BitVec 2) (hop : op ≠ 0) :
      StepEffect s (startCommand op s)
  | ended (released : s.inReset = false) (busy : s.status.busy = true) {t : State} (h : CommandEnd s t) :
      StepEffect s t
  | moved (released : s.inReset = false) (busy : s.status.busy = true) : StepEffect s (arrow s)

/-- The low two bits of a CMD word are its OP: 0 is NOP (30 R82). -/
theorem decodeCmd_of_op_zero (v : Word) (h : field v 0 2 = 0) : decodeCmd v = .nop := by
  simp [decodeCmd, h]

theorem hostWrite_effect (r : Reg) (v : Word) (s t : State) (released : s.inReset = false)
    (h : hostWrite r v s = .next t) : StepEffect s t := by
  obtain ⟨_, e⟩ | ⟨_, _, _, e⟩ | ⟨_, _, _, hop, e⟩ | ⟨_, _, hf, hop, e⟩ | ⟨_, _, e⟩ := hostWrite_cases r v s
  all_goals rw [e] at h
  · cases h; exact .dropped released
  · cases h; exact .nothing
  · rw [decodeCmd_of_op_zero v hop] at h; cases h; exact .nothing
  · cases h; exact .started released hf _ hop
  · cases h; exact .written released r v

theorem engineStep_effect (s t : State) (released : s.inReset = false) (h : engineStep s = .next t) :
    StepEffect s t := by
  obtain ⟨_, e⟩ | ⟨hb, _, e⟩ | ⟨hb, _, e⟩ | ⟨hb, _, e⟩ | ⟨hb, _, _, _, e⟩ := engineStep_cases s
  all_goals rw [e] at h
  · cases h; exact .nothing
  · exact .ended released hb (exec_encode_end s t h)
  · exact .ended released hb (exec_decode_end s t h)
  · cases h; exact .ended released hb (.fatal .errBadCmd (by decide))
  · cases h; exact .moved released hb

theorem tickStep_effect (s : State) (released : s.inReset = false) : StepEffect s (tickStep s) := by
  unfold tickStep
  split
  · exact .moved released ‹_›
  · exact .nothing

theorem eventStep_effect (e : Event) (s t : State) (h : eventStep e s = .next t) : StepEffect s t := by
  obtain ⟨_, rfl⟩ | ⟨_, rfl⟩ | ⟨_, rfl⟩ | ⟨hr, a, _, ha⟩ | ⟨_, _, rfl⟩ | ⟨hr, _, he⟩ | ⟨hr, _, rfl⟩ :=
    eventStep_cases e s t h
  · exact .resetAsserted
  · exact .resetReleased
  · exact .nothing
  · obtain ⟨off, _, ⟨_, rfl⟩ | ⟨_, rfl | ⟨v, hw⟩⟩⟩ := hostStep_next a s t ha
    · exact .nothing
    · exact .read _
    · exact hostWrite_effect _ v s t hr hw
  · exact .polled
  · exact engineStep_effect s t hr he
  · exact tickStep_effect s hr

/-- A step has one effect on the state, its event having left the queue (70 R288). -/
theorem step_effect (s t : State) (h : step s = .next t) : ∃ rest, StepEffect { s with bus := rest } t := by
  obtain ⟨_, _, rfl⟩ | ⟨_, hr, he⟩ | ⟨e, rest, _, he⟩ := step_cases s t h
  · exact ⟨t.bus, .nothing⟩
  · exact ⟨s.bus, engineStep_effect s t hr he⟩
  · exact ⟨rest, eventStep_effect e _ t he⟩

@[simp] theorem waitStep_cfg (s : State) : (waitStep s).cfg = s.cfg := by
  unfold waitStep
  split <;> rfl

/-- Settles O19: no effect of a step writes the parameters. -/
theorem stepKeepsTheParameters : Obligations.StepKeepsTheParameters := by
  intro s t hstep
  obtain ⟨rest, h⟩ := step_effect s t hstep
  change t.cfg = ({ s with bus := rest } : State).cfg
  cases h with
  | ended _ _ hend => exact hend.cfg
  | moved => exact (arrow_keeps _).cfg
  | written => exact writeReg_cfg _ _ _
  | polled => exact waitStep_cfg _
  | _ => rfl

end Sys2Proof.Machine
end

section
/-! PROOFS. The invariant of the machine: it holds after reset, each end of a command and each move inside one keeps it,
and so does every step. -/

namespace Sys2Proof.Machine

/-! ### The parts of the invariant read few fields -/

theorem StatusCoherent.of_eq {s t : State} (h : StatusCoherent s) (hst : t.status = s.status) (hf : t.fsm = s.fsm) :
    StatusCoherent t := by
  obtain ⟨busy, fault, clears, legal, ok, cls, idle⟩ := h
  rw [← hst, ← hf] at *
  exact ⟨busy, fault, clears, legal, ok, cls, idle⟩

theorem OutputCoherent.of_eq {s t : State} (h : OutputCoherent s) (hl : t.outLen = s.outLen) (hn : t.nNext = s.nNext)
    (hc : t.charOut = s.charOut) : OutputCoherent t := by
  obtain ⟨len, next, zeros⟩ := h
  rw [← hl, ← hn, ← hc] at *
  exact ⟨len, next, zeros⟩

theorem StatusCoherent.fault_of_busy {s : State} (h : StatusCoherent s) (hb : s.status.busy = true) :
    s.status.fault = false := by
  have hfsm : s.fsm ≠ .idle ∧ s.fsm ≠ .fault := by simpa [hb] using h.busy_iff
  simp [h.fault_iff, hfsm.2]

theorem HeldInReset.of_released {s : State} (h : s.inReset = false) : HeldInReset s :=
  fun hr => absurd hr (by simp [h])

/-! ### Reset -/

/-- The reset values meet the invariant, with reset asserted or released (10 R46, 70 R280). -/
theorem inv_resetWith (c : Config) (hc : Config.legal c = true) (r : Bool) (bus : List Event) (observed : List Word) :
    Inv { State.resetWith c with inReset := r, bus := bus, observed := observed } where
  legal := hc
  status := ⟨rfl, rfl, fun _ => ⟨rfl, rfl, rfl⟩, rfl, rfl, rfl, fun _ _ => rfl⟩
  op := rfl
  width :=
    { payload := fun k _ => by
        have hword : (State.resetWith c).payload.getD k 0 = 0 := (getD_replicate 16 k 0 0).trans (ite_self 0)
        exact lt_of_eq_of_lt (congrArg BitVec.toNat hword) (Nat.two_pow_pos _)
      acc := Nat.two_pow_pos _ }
  output :=
    { outLen := Nat.zero_le _
      nNext := Nat.zero_le _
      zeros := fun k _ _ => (getD_replicate 64 k 0 0).trans (ite_self 0) }
  held := fun hr => by cases hr; rfl

/-- The reference grids and unresolved slots meet the constraints of 40 R118. -/
theorem referenceConfig_legal : Config.legal referenceConfig = true := by decide +kernel

/-- Settles O17. -/
theorem resetSatisfiesTheInvariant : Obligations.ResetSatisfiesTheInvariant :=
  inv_resetWith referenceConfig referenceConfig_legal false [] []

/-! ### The surroundings and the host port -/

/-- The queue and the host's record of reads are no part of the block. -/
theorem Inv.surroundings {s : State} (h : Inv s) (bus : List Event) (observed : List Word) :
    Inv { s with bus := bus, observed := observed } where
  legal := h.legal
  status := h.status.of_eq rfl rfl
  op := h.op
  width := ⟨h.width.payload, h.width.acc⟩
  output := h.output.of_eq rfl rfl rfl
  held := fun hr => congrArg (fun u : State => { u with bus := bus, observed := observed }) (h.held hr)

theorem Inv.waitStep {s : State} (h : Inv s) : Inv (waitStep s) := by
  unfold Machine.waitStep
  split
  · exact h.surroundings _ _
  · exact h.surroundings s.bus _

theorem Inv.release {s : State} (h : Inv s) : Inv { s with inReset := false } where
  legal := h.legal
  status := h.status.of_eq rfl rfl
  op := h.op
  width := ⟨h.width.payload, h.width.acc⟩
  output := h.output.of_eq rfl rfl rfl
  held := .of_released rfl

/-- OVR is bound to nothing (60 R258). -/
theorem Inv.dropWrite {s : State} (h : Inv s) (released : s.inReset = false) : Inv (dropWrite s) where
  legal := h.legal
  status :=
    { busy_iff := h.status.busy_iff
      fault_iff := h.status.fault_iff
      busy_clears := h.status.busy_clears
      legal := h.status.legal
      ok_iff := h.status.ok_iff
      fault_class := h.status.fault_class
      idle_done := h.status.idle_done }
  op := h.op
  width := ⟨h.width.payload, h.width.acc⟩
  output := h.output.of_eq rfl rfl rfl
  held := .of_released released

theorem payloadMask_toNat_lt (c : Config) (k : Nat) : (payloadMask c k).toNat < 2 ^ min 32 (c.p - 32 * k) := by
  have hpos := Nat.two_pow_pos (min 32 (c.p - 32 * k))
  have hmod := Nat.mod_le (2 ^ min 32 (c.p - 32 * k) - 1) (2 ^ 32)
  rw [payloadMask, BitVec.toNat_ofNat]
  omega

/-- A write stores only the payload bits below P (10 R33). -/
theorem writeReg_payload_lt (s : State) (r : Reg) (v : Word)
    (h : ∀ k < 16, (s.payload.getD k 0).toNat < 2 ^ min 32 (s.cfg.p - 32 * k)) :
    ∀ k < 16, ((writeReg s r v).payload.getD k 0).toNat < 2 ^ min 32 (s.cfg.p - 32 * k) := by
  intro k hk
  obtain e | e | e | ⟨j, e⟩ | ⟨_, e⟩ := writeReg_cases s r v <;> rw [e]
  case inr.inr.inr.inl =>
    dsimp only
    rw [getD_setIfInBounds]
    split
    · next hjk =>
      rw [hjk.1, BitVec.toNat_and]
      exact lt_of_le_of_lt Nat.and_le_right (payloadMask_toNat_lt s.cfg k)
    · exact h k hk
  all_goals exact h k hk

theorem Inv.writeReg {s : State} (h : Inv s) (released : s.inReset = false) (r : Reg) (v : Word) :
    Inv (writeReg s r v) where
  legal := by simpa using h.legal
  status := h.status.of_eq (writeReg_status s r v) (writeReg_fsm s r v)
  op := by simpa [opMatchesFsm] using h.op
  width := ⟨by simpa using writeReg_payload_lt s r v h.width.payload, by simpa using h.width.acc⟩
  output := h.output.of_eq (writeReg_outLen s r v) (writeReg_nNext s r v) (writeReg_charOut s r v)
  held := .of_released (by simpa using released)

/-- The three commands that start, and the engine state each begins in (10 R21). -/
theorem startFsm_cases (op : BitVec 2) (h : op ≠ 0) :
    op = 1 ∧ startFsm op = .encGate ∨ op = 2 ∧ startFsm op = .decCheck ∨ op = 3 ∧ startFsm op = .badCmd := by
  revert op; decide

theorem startFsm_runs (op : BitVec 2) : startFsm op ≠ .idle ∧ startFsm op ≠ .fault := by
  revert op; decide

theorem opMatchesFsm_startCommand (op : BitVec 2) (s : State) (h : op ≠ 0) :
    opMatchesFsm (startCommand op s) = true := by
  obtain ⟨rfl, _⟩ | ⟨rfl, _⟩ | ⟨rfl, _⟩ := startFsm_cases op h <;> rfl

theorem Inv.startCommand {s : State} (h : Inv s) (released : s.inReset = false) (nofault : s.status.fault = false)
    (op : BitVec 2) (hop : op ≠ 0) : Inv (startCommand op s) where
  legal := h.legal
  status :=
    { busy_iff := by simp [startFsm_runs]
      fault_iff := by simp [startFsm_runs, nofault]
      busy_clears := fun _ => ⟨rfl, rfl, rfl⟩
      legal := rfl
      ok_iff := rfl
      fault_class := by simp [nofault]
      idle_done := fun _ _ => rfl }
  op := opMatchesFsm_startCommand op s hop
  width := ⟨h.width.payload, h.width.acc⟩
  output := h.output.of_eq rfl rfl rfl
  held := .of_released released

/-! ### The ends of a command -/

/-- A state in the middle of a command that meets the invariant: the engine steps in no other (70 R288 b). -/
structure Running (s : State) : Prop where
  inv : Inv s
  busy : s.status.busy = true
  released : s.inReset = false

/-- `finish` with a normal code clears BUSY and keeps FAULT at 0 (60 R252). -/
theorem StatusCoherent.finish {s : State} (nofault : s.status.fault = false) (r : ResultCode)
    (hr : (resultBits r).toNat < 8) : StatusCoherent (finish r s) where
  busy_iff := rfl
  fault_iff := nofault
  busy_clears := fun hb => by cases hb
  legal := resultLegal_resultBits r
  ok_iff := by simp [resultBits_eq_zero]
  fault_class := nofault.trans (decide_eq_false (Nat.not_le.2 hr)).symm
  idle_done := fun _ hd => by cases hd

/-- `raise Fatal(c)` sets FAULT with a code of 8 or more (60 R251, R254). -/
theorem StatusCoherent.raiseFatal (s : State) (r : ResultCode) (hr : 8 ≤ (resultBits r).toNat) :
    StatusCoherent (raiseFatal r s) where
  busy_iff := rfl
  fault_iff := rfl
  busy_clears := fun hb => by cases hb
  legal := resultLegal_resultBits r
  ok_iff := by
    have hne : r ≠ .success := by rintro rfl; exact absurd hr (by decide)
    simp [resultBits_eq_zero, hne]
  fault_class := (decide_eq_true hr).symm
  idle_done := fun _ hd => by cases hd

/-- Storing a number below 2^P leaves the bits at or above P at 0 (10 R33, 42 R181). -/
theorem payloadWords_toNat_lt (p acc k : Nat) (hacc : acc < 2 ^ p) (hk : k < 16) :
    ((payloadWords acc).getD k 0).toNat < 2 ^ min 32 (p - 32 * k) := by
  rw [payloadWords_getD _ _ hk, BitVec.toNat_ofNat, Nat.shiftRight_eq_div_pow]
  obtain h | h := Nat.le_total 32 (p - 32 * k)
  · rw [min_eq_left h]; exact Nat.mod_lt _ (Nat.two_pow_pos 32)
  · rw [min_eq_right h]
    refine lt_of_le_of_lt (Nat.mod_le _ _) (Nat.div_lt_of_lt_mul ?_)
    rw [← pow_add]
    exact lt_of_lt_of_le hacc (Nat.pow_le_pow_right (by decide) (by omega))

/-- After the commit of a string the entries past it are 0 (10 R35, 43 R210). -/
theorem OutputCoherent.commitDecode {s : State} (hn : s.nNext.toNat ≤ 63) (us : List CodeUnit) (hus : us.length ≤ 63) :
    OutputCoherent (commitDecode us s) := by
  have hlen : (BitVec.ofNat 7 us.length).toNat = us.length := by
    rw [BitVec.toNat_ofNat, Nat.mod_eq_of_lt (by omega)]
  refine ⟨by rw [commitDecode_outLen, hlen]; exact hus, hn, fun k hk hk64 => ?_⟩
  rw [commitDecode_outLen, hlen] at hk
  rw [commitDecode_charOut, vectorOf_getD, if_pos hk64]
  exact List.getD_eq_default _ _ hk

/-- Whatever ends a running command keeps the invariant. -/
theorem Running.ends {s t : State} (h : Running s) (hend : CommandEnd s t) : Inv t := by
  obtain ⟨inv, busy, released⟩ := h
  have nofault := inv.status.fault_of_busy busy
  cases hend with
  | normal r hr =>
    exact ⟨inv.legal, .finish nofault r hr, rfl, ⟨inv.width.payload, inv.width.acc⟩, inv.output.of_eq rfl rfl rfl,
      .of_released released⟩
  | fatal r hr =>
    exact ⟨inv.legal, .raiseFatal s r hr, rfl, ⟨inv.width.payload, inv.width.acc⟩, inv.output.of_eq rfl rfl rfl,
      .of_released released⟩
  | encoded hdr acc hacc =>
    have hp := (legal_width s.cfg inv.legal).2.1
    exact ⟨inv.legal, (StatusCoherent.finish nofault .success (by decide)).of_eq rfl rfl, rfl,
      ⟨fun k hk => payloadWords_toNat_lt _ acc k (hacc hp) hk, inv.width.acc⟩, inv.output.of_eq rfl rfl rfl,
      .of_released released⟩
  | decoded us hus =>
    exact ⟨inv.legal, (StatusCoherent.finish nofault .success (by decide)).of_eq rfl rfl, rfl,
      ⟨inv.width.payload, inv.width.acc⟩, .commitDecode inv.output.nNext us hus, .of_released released⟩

/-! ### The arrows -/

/-- An arrow inside a command writes the engine's internal registers only (20 R69); the invariant asks of it that the
new engine state runs and belongs to the latched OP, and the bounds of ACC and the pending length. -/
theorem Running.moves {s : State} (h : Running s) {fsm : Fsm} {acc : Nat} {cand : BitVec 9} {cls : Vector CharClass 63}
    {bytes : Vector Byte 63} {nbytes : BitVec 8} {i : BitVec 6} {tryid : BitVec 4} {hdrNext : BitVec 12}
    {nNext : BitVec 7} {outNext : Vector CodeUnit 63} (hop : opMatchesFsm { s with fsm := fsm } = true)
    (hrun : fsm ≠ .idle ∧ fsm ≠ .fault) (hacc : acc < 2 ^ s.cfg.p) (hn : nNext.toNat ≤ 63) :
    Inv { s with
      fsm := fsm, acc := acc, cand := cand, cls := cls, bytes := bytes, nbytes := nbytes, i := i, tryid := tryid
      hdrNext := hdrNext, nNext := nNext, outNext := outNext } where
  legal := h.inv.legal
  status :=
    { busy_iff := by simp [h.busy, hrun]
      fault_iff := by simp [h.inv.status.fault_of_busy h.busy, hrun]
      busy_clears := h.inv.status.busy_clears
      legal := h.inv.status.legal
      ok_iff := h.inv.status.ok_iff
      fault_class := h.inv.status.fault_class
      idle_done := h.inv.status.idle_done }
  op := hop
  width := ⟨h.inv.width.payload, hacc⟩
  output := ⟨h.inv.output.outLen, hn, h.inv.output.zeros⟩
  held := .of_released h.released

section Arrows

variable {s : State} (h : Running s)
include h

theorem Running.acc_lt : s.acc < 2 ^ s.cfg.p := h.inv.width.acc

theorem Running.nNext_le : s.nNext.toNat ≤ 63 := h.inv.output.nNext

/-- Of the engine state, only that it runs. -/
theorem Running.fsm_runs : s.fsm ≠ .idle ∧ s.fsm ≠ .fault := by
  simpa [h.busy] using h.inv.status.busy_iff

theorem Running.width_ge : 8 ≤ s.cfg.p := (legal_width s.cfg h.inv.legal).2.1

theorem Running.brOrLow_alphabetMask_lt (a : Alphabet) (acc code : Nat) (hacc : acc < 2 ^ s.cfg.p) :
    brOrLow acc code (alphabetMask a) < 2 ^ s.cfg.p :=
  brOrLow_lt _ _ _ _ ((alphabetStep_le a).trans h.width_ge) hacc

/-- Appending a character keeps ACC below 2^P (42 R170). -/
theorem Running.appendCode (a : Alphabet) (code : Nat) : Inv (appendCode s a code) := by
  refine h.moves h.inv.op h.fsm_runs (h.brOrLow_alphabetMask_lt a _ code ?_) h.nNext_le
  split
  · exact h.acc_lt
  · exact brShiftLeft_lt _ _ _

theorem Running.brShiftRight_lt (n : Nat) : brShiftRight s.acc n < 2 ^ s.cfg.p :=
  lt_of_le_of_lt (Nat.shiftRight_le _ _) h.acc_lt

theorem Running.storeBytes (bs : List Byte) : Running (storeBytes bs s) :=
  ⟨h.moves h.inv.op h.fsm_runs h.acc_lt h.nNext_le, h.busy, h.released⟩

theorem Running.arrowEncGate (hop : s.op = 1) : Inv (arrowEncGate s) := by
  unfold Machine.arrowEncGate
  split
  · exact h.ends (.normal .nofit (by decide))
  split
  · exact h.moves (by simp [opMatchesFsm, hop]) (by decide) (Nat.two_pow_pos _) h.nNext_le
  split
  · exact h.moves (by simp [opMatchesFsm, hop]) (by decide) (Nat.two_pow_pos _) h.nNext_le
  · exact h.moves (by simp [opMatchesFsm, hop]) (by decide) h.acc_lt h.nNext_le

theorem Running.arrowEncLatin1 (hop : s.op = 1) : Inv (arrowEncLatin1 s) := by
  unfold Machine.arrowEncLatin1
  split
  · exact h.moves (by simp [opMatchesFsm, hop]) (by decide) h.acc_lt h.nNext_le
  split
  · exact h.appendCode _ _
  · exact h.moves (by simp [opMatchesFsm, hop]) (by decide) h.acc_lt h.nNext_le

theorem Running.arrowEncUtf8 (hop : s.op = 1) : Inv (arrowEncUtf8 s) := by
  unfold Machine.arrowEncUtf8
  split
  · exact h.ends (.fatal .errBadUtf16 (by decide))
  split
  · exact (h.storeBytes _).moves (by simp [opMatchesFsm, hop]) (by decide) (pack_lt _ _ _ h.width_ge) h.nNext_le
  · exact (h.storeBytes _).ends (.normal .nofit (by decide))

theorem Running.arrowEncClassify (hop : s.op = 1) : Inv (arrowEncClassify s) := by
  unfold Machine.arrowEncClassify
  split
  · exact h.moves (by simp [opMatchesFsm, hop]) (by decide) h.acc_lt h.nNext_le
  · exact h.moves h.inv.op h.fsm_runs h.acc_lt h.nNext_le

theorem Running.arrowEncTry (hop : s.op = 1) : Inv (arrowEncTry s) := by
  unfold Machine.arrowEncTry
  split
  · exact h.ends (.normal .nofit (by decide))
  split
  · split
    · exact h.moves (by simp [opMatchesFsm, hop]) (by decide) (Nat.two_pow_pos _) h.nNext_le
    · exact h.moves h.inv.op h.fsm_runs h.acc_lt h.nNext_le
  · exact h.moves h.inv.op h.fsm_runs h.acc_lt h.nNext_le

theorem Running.arrowEncPack (hop : s.op = 1) : Inv (arrowEncPack s) := by
  unfold Machine.arrowEncPack
  split
  · exact h.moves (by simp [opMatchesFsm, hop]) (by decide) h.acc_lt h.nNext_le
  split
  · exact h.moves (by simp [opMatchesFsm, hop]) (by decide) h.acc_lt h.nNext_le
  split
  · exact h.appendCode _ _
  · exact h.moves (by simp [opMatchesFsm, hop]) (by decide) h.acc_lt h.nNext_le
  · exact h.ends (.fatal .errContract (by decide))

theorem Running.arrowDecCheck (hop : s.op = 2) : Inv (arrowDecCheck s) := by
  unfold Machine.arrowDecCheck
  split
  · exact h.ends (.normal .foreign (by decide))
  split
  · exact h.moves (by simp [opMatchesFsm, hop]) (by decide) h.acc_lt (Nat.zero_le _)
  split
  · exact h.ends (.fatal .errBadId (by decide))
  split
  · exact h.ends (.fatal .errBadLength (by decide))
  · exact h.moves (by simp [opMatchesFsm, hop]) (by decide) (payloadValue_lt s) h.nNext_le

theorem Running.emitUnit (a : Alphabet) (u : CodeUnit) : Inv (emitUnit s a u) :=
  h.moves h.inv.op h.fsm_runs (h.brShiftRight_lt _) h.nNext_le

theorem Running.arrowUnpackGroup (a : Alphabet) : Inv (arrowUnpackGroup s a) := by
  unfold Machine.arrowUnpackGroup
  cases a with
  | utf8 => exact h.moves h.inv.op h.fsm_runs (h.brShiftRight_lt _) h.nNext_le
  | latin1 => exact h.emitUnit _ _
  | _ =>
    dsimp only
    split
    · exact h.emitUnit _ _
    · exact h.ends (.fatal .errBadCode (by decide))

/-- LEN has six bits (43 R201). -/
theorem Running.arrowDecUnpack (hop : s.op = 2) : Inv (arrowDecUnpack s) := by
  have hlen : ((hdrLen s.hdr).setWidth 7).toNat ≤ 63 := by
    have := (hdrLen s.hdr).isLt
    rw [BitVec.toNat_setWidth_of_le (by decide)]
    omega
  unfold Machine.arrowDecUnpack
  split
  · exact h.ends (.fatal .errBadId (by decide))
  split
  · split
    · exact h.moves (by simp [opMatchesFsm, hop]) (by decide) h.acc_lt h.nNext_le
    · exact h.moves (by simp [opMatchesFsm, hop]) (by decide) h.acc_lt hlen
  · exact h.arrowUnpackGroup _

/-- BYTES has 63 entries, so the deserialised string has at most 63 units (44 R234). -/
theorem Running.arrowDecUtf8 (hop : s.op = 2) : Inv (arrowDecUtf8 s) := by
  unfold Machine.arrowDecUtf8
  split
  · exact h.ends (.fatal .errBadUtf8 (by decide))
  · next us hus =>
    have hlen : us.length ≤ 63 := (utf8Deserialise_length_le _ _ hus).trans (by simp)
    refine h.moves (by simp [opMatchesFsm, hop]) (by decide) h.acc_lt ?_
    rw [BitVec.toNat_ofNat]
    exact (Nat.mod_le _ _).trans hlen

theorem Running.arrowCommit : Inv (arrowCommit s) := by
  unfold Machine.arrowCommit
  split
  · exact h.ends (.encoded _ _ fun _ => h.acc_lt)
  · exact h.ends (.decoded _ (by simp))

/-- Every arrow keeps the invariant: the latched OP is the one its engine state belongs to (10 R42). -/
theorem Running.arrow : Inv (arrow s) := by
  have hop := h.inv.op
  unfold Machine.arrow
  cases hf : s.fsm <;> simp only [opMatchesFsm, hf, decide_eq_true_eq] at hop <;> dsimp only
  case idle | fault => exact h.inv
  case encGate => exact h.arrowEncGate hop
  case encLatin1 => exact h.arrowEncLatin1 hop
  case encUtf8 => exact h.arrowEncUtf8 hop
  case encClassify => exact h.arrowEncClassify hop
  case encTry => exact h.arrowEncTry hop
  case encPack => exact h.arrowEncPack hop
  case decCheck => exact h.arrowDecCheck hop
  case decUnpack => exact h.arrowDecUnpack hop
  case decUtf8 => exact h.arrowDecUtf8 hop
  case badCmd => exact h.ends (.fatal .errBadCmd (by decide))
  case commit => exact h.arrowCommit

end Arrows

/-! ### Every step -/

/-- Every effect of a step keeps the invariant. -/
theorem Inv.stepEffect {s t : State} (h : Inv s) (heff : StepEffect s t) : Inv t := by
  cases heff with
  | resetAsserted => exact inv_resetWith s.cfg h.legal true s.bus s.observed
  | resetReleased => exact h.release
  | nothing => exact h
  | read r => exact h.surroundings s.bus _
  | polled => exact h.waitStep
  | dropped released => exact h.dropWrite released
  | written released r v => exact h.writeReg released r v
  | started released nofault op hop => exact h.startCommand released nofault op hop
  | ended released busy hend => exact Running.ends ⟨h, busy, released⟩ hend
  | moved released busy => exact Running.arrow ⟨h, busy, released⟩

/-- Settles O18, by the effects a step can have. -/
theorem stepKeepsTheInvariant : Obligations.StepKeepsTheInvariant := by
  intro s t hinv hstep
  obtain ⟨rest, heff⟩ := step_effect s t hstep
  exact (hinv.surroundings rest s.observed).stepEffect heff

end Sys2Proof.Machine
end

section
/-! PROOFS. What a step does with the first event of the queue, the host port's writes, and the reset values. -/

namespace Sys2Proof.Machine

/-! ### The step of each kind of event -/

theorem step_of_bus_cons (s : State) (e : Event) (rest : List Event) (hbus : s.bus = e :: rest) :
    step s = eventStep e { s with bus := rest } := by
  unfold step runStep
  rw [hbus]

/-- With nothing pending it is the engine's turn (70 R288). -/
theorem step_of_bus_nil (s : State) (hbus : s.bus = []) (released : s.inReset = false) : step s = engineStep s := by
  unfold step runStep
  rw [hbus]
  simp [released]

theorem step_engine (s : State) (rest : List Event) (hbus : s.bus = .engine :: rest) (released : s.inReset = false) :
    step s = engineStep { s with bus := rest } := by
  rw [step_of_bus_cons s _ rest hbus]
  simp [eventStep, released]

/-- A 32-bit write to a word of the register space reaches the register there (20 R63). -/
theorem step_write (s : State) (rest : List Event) (off : Nat) (v : Word) (hoff : off < 4096) (haligned : off % 4 = 0)
    (hbus : s.bus = .host (.write (s.cfg.base + off) 4 v) :: rest) (released : s.inReset = false) :
    step s = hostWrite (regAt off) v { s with bus := rest } := by
  rw [step_of_bus_cons s _ rest hbus]
  simp [eventStep, hostStep, accessOffset, portOffset_of_aligned, hoff, haligned, released, serveAccess]

/-- CMD stands at offset 0 (20 R61). -/
theorem step_write_cmd (s : State) (rest : List Event) (v : Word)
    (hbus : s.bus = .host (.write s.cfg.base 4 v) :: rest) (released : s.inReset = false) :
    step s = hostWrite .cmd v { s with bus := rest } :=
  step_write s rest 0 v (by decide) rfl hbus released

/-! ### The engine's turn at the start of a command -/

/-- The command that the latched OP stands for is the one its engine state starts (10 R21, R42). -/
theorem engineStep_start (s : State) (busy : s.status.busy = true) (hop : opMatchesFsm s = true)
    (hfsm : s.fsm = .encGate ∨ s.fsm = .decCheck ∨ s.fsm = .badCmd) :
    engineStep s = exec (decodeCmd (s.op.setWidth 32)) s := by
  have latched : s.op = 1 ∧ s.fsm = .encGate ∨ s.op = 2 ∧ s.fsm = .decCheck ∨ s.op = 3 ∧ s.fsm = .badCmd := by
    obtain hf | hf | hf := hfsm <;> simpa [opMatchesFsm, hf] using hop
  obtain ⟨ho, hf⟩ | ⟨ho, hf⟩ | ⟨ho, hf⟩ := latched
  all_goals
    rw [ho]
    simp only [engineStep, busy, hf]
    rfl

theorem engineStep_decCheck (s : State) (busy : s.status.busy = true) (hfsm : s.fsm = .decCheck) :
    engineStep s = exec (decodeHdr s.hdr) s := by
  rw [← exec_decode]
  simp [engineStep, busy, hfsm]

/-- The register word of a header gives the header back: bits 31:12 are ignored (30 R88 f). -/
theorem decodeWord_hdr_setWidth (h : BitVec 12) : decodeWord .hdr (h.setWidth 32) = decodeHdr h := by
  have hfield : field (h.setWidth 32) 0 12 = h := by
    ext k hk
    simp [field, show k < 32 by omega, BitVec.getLsbD_eq_getElem hk]
  rw [decodeWord, hfield]

theorem op_eq_zero_of_and (v : Word) (h : v &&& 3#32 = 0#32) : field v 0 2 = 0 := by
  have hn : v.toNat % 2 ^ 2 = 0 := by
    have := congrArg BitVec.toNat h
    rwa [BitVec.toNat_and, show (3#32).toNat = 2 ^ 2 - 1 from rfl, Nat.and_two_pow_sub_one_eq_mod] at this
  apply BitVec.eq_of_toNat_eq
  simpa [field] using hn

/-! ### The host port's writes, case by case -/

theorem hostWrite_busy (r : Reg) (v : Word) (s : State) (busy : s.status.busy = true) :
    hostWrite r v s = .next (dropWrite s) := by
  simp [hostWrite, busy]

theorem hostWrite_cmd_fault (v : Word) (s : State) (idle : s.status.busy = false) (fault : s.status.fault = true) :
    hostWrite .cmd v s = .next s := by
  simp [hostWrite, idle, fault]

/-- An accepted CMD write with OP = 0 runs NOP (42 R189). -/
theorem hostWrite_nop (v : Word) (s : State) (idle : s.status.busy = false) (nofault : s.status.fault = false)
    (hop : field v 0 2 = 0) : hostWrite .cmd v s = exec (decodeCmd v) s := by
  simp [hostWrite, idle, nofault, hop]

theorem hostWrite_start (v : Word) (s : State) (idle : s.status.busy = false) (nofault : s.status.fault = false)
    (hop : field v 0 2 ≠ 0) : hostWrite .cmd v s = .next (startCommand (field v 0 2) s) := by
  simp [hostWrite, idle, nofault, show field v 0 2 ≠ 0#2 from hop]

theorem hostWrite_reg (r : Reg) (v : Word) (s : State) (idle : s.status.busy = false) (hr : r ≠ .cmd) :
    hostWrite r v s = .next (writeReg s r v) := by
  simp [hostWrite, idle, hr]

/-- Settles O6: the bytes of a register decode to the word's instruction, and that is what the engine or the host port
runs. -/
theorem stepRunsTheFetchedInstruction : Obligations.StepRunsTheFetchedInstruction := by
  refine ⟨?_, ?_, ?_, ?_⟩
  · intro s rest i hbus released busy hop hfsm hdec
    rw [decode_bytesOfWord] at hdec
    cases hdec
    rw [step_engine s rest hbus released]
    exact engineStep_start { s with bus := rest } busy hop hfsm
  · intro s i hbus released busy hop hfsm hdec
    rw [decode_bytesOfWord] at hdec
    cases hdec
    rw [step_of_bus_nil s hbus released]
    exact engineStep_start s busy hop hfsm
  · intro s rest i hbus released busy hfsm hdec
    rw [decode_bytesOfWord, decodeWord_hdr_setWidth] at hdec
    cases hdec
    rw [step_engine s rest hbus released]
    exact engineStep_decCheck { s with bus := rest } busy hfsm
  · intro s rest v i hbus released idle nofault hv hdec
    rw [decode_bytesOfWord] at hdec
    cases hdec
    rw [step_write_cmd s rest v hbus released]
    exact hostWrite_nop v { s with bus := rest } idle nofault (op_eq_zero_of_and v hv)

/-! ### A write to CMD -/

theorem startFsm_eq (op : BitVec 2) :
    startFsm op = if op = 1#2 then .encGate else if op = 2#2 then .decCheck else .badCmd := by
  revert op; decide

/-- Settles O7, by the cases of a host write: BUSY, FAULT, NOP and the start of a command. -/
theorem commandWriteStartsItsCommand : Obligations.CommandWriteStartsItsCommand := by
  refine ⟨fun s => ⟨rfl, rfl⟩, fun s rest v hbus released => ?_⟩
  rw [step_write_cmd s rest v hbus released]
  refine ⟨fun busy => ?_, fun idle fault => ?_, fun idle nofault hop => ?_, fun idle nofault hop => ?_⟩
  · exact hostWrite_busy .cmd v _ busy
  · exact hostWrite_cmd_fault v _ idle fault
  · rw [hostWrite_nop v { s with bus := rest } idle nofault hop, decodeCmd_of_op_zero v hop]
    rfl
  · rw [← startFsm_eq]
    exact hostWrite_start v _ idle nofault hop

/-! ### A write to any other register -/

/-- A register of the map: the index of an array lies in range (20 R61). -/
def Reg.InRange : Reg → Prop
  | .payload k => k < 16
  | .charIn k | .charOut k => k < 64
  | .cmd | .status | .config | .inLen | .hdr | .outLen | .reserved => True

/-- A register that stands at an offset: one of the map, and at its own offset unless it is reserved (20 R61, R62). -/
def Reg.StandsAt (off : Nat) (r : Reg) : Prop :=
  r.InRange ∧ (off % 4 = 0 → r ≠ .reserved → regOffset r = off)

theorem regAt_standsAt (off : Nat) : (regAt off).StandsAt off := by
  unfold regAt
  repeat' refine iteInduction (motive := Reg.StandsAt off) (fun _ => ?_) (fun _ => ?_)
  case refine_2 => exact ⟨trivial, fun _ hr => absurd rfl hr⟩
  all_goals
    refine ⟨?_, fun haligned _ => ?_⟩ <;> simp only [Reg.InRange, regOffset] <;> omega

/-- Only the reserved offsets share a register (20 R61). -/
theorem regAt_injective (a b : Nat) (ha : a % 4 = 0) (hb : b % 4 = 0) (h : regAt a = regAt b) :
    a = b ∨ regAt b = .reserved := by
  by_cases hr : regAt b = .reserved
  · exact .inr hr
  · left
    calc a = regOffset (regAt a) := ((regAt_standsAt a).2 ha (h ▸ hr)).symm
      _ = regOffset (regAt b) := by rw [h]
      _ = b := (regAt_standsAt b).2 hb hr

theorem readReg_writeReg_other (s : State) (r r' : Reg) (v : Word) (h : r' ≠ r) :
    readReg (writeReg s r v) r' = readReg s r' := by
  cases r with
  | inLen =>
    cases r' with
    | inLen => exact absurd rfl h
    | _ => rfl
  | hdr =>
    cases r' with
    | hdr => exact absurd rfl h
    | _ => rfl
  | payload k =>
    cases r' with
    | payload j => exact (getD_setIfInBounds _ _ _ _ _).trans (if_neg fun hkj => h (by rw [hkj.1]))
    | _ => rfl
  | charIn k =>
    cases r' with
    | charIn j =>
      exact congrArg (BitVec.setWidth 32)
        ((getD_setIfInBounds _ _ _ _ _).trans (if_neg fun hkj => h (by rw [hkj.1])))
    | _ => rfl
  | cmd | status | config | outLen | charOut | reserved => rfl

/-- A field of `n` low bits reads as those bits of the word written to it (10 R48). -/
theorem setWidth_setWidth_eq_and (v : Word) (n : Nat) (hn : n ≤ 32) :
    (v.setWidth n).setWidth 32 = v &&& BitVec.ofNat 32 (2 ^ n - 1) := by
  have hle : 2 ^ n ≤ 2 ^ 32 := Nat.pow_le_pow_right (by decide) hn
  have hpos := Nat.two_pow_pos n
  have hlt : v.toNat % 2 ^ n < 2 ^ n := Nat.mod_lt _ hpos
  apply BitVec.eq_of_toNat_eq
  rw [BitVec.toNat_and, BitVec.toNat_ofNat, Nat.mod_eq_of_lt (a := 2 ^ n - 1) (by omega),
    Nat.and_two_pow_sub_one_eq_mod, BitVec.toNat_setWidth, BitVec.toNat_setWidth, Nat.mod_eq_of_lt (by omega)]

/-- What a register reads after a write to it (10 R30, R31, R33, R34, R48). -/
theorem readReg_writeReg_same (s : State) (r : Reg) (v : Word) (hr : r.InRange) :
    readReg (writeReg s r v) r = storedWord s r v := by
  cases r with
  | inLen => exact setWidth_setWidth_eq_and v 16 (by decide)
  | hdr => exact setWidth_setWidth_eq_and v 12 (by decide)
  | payload k => exact (getD_setIfInBounds _ _ _ _ _).trans (if_pos ⟨rfl, hr⟩)
  | charIn k =>
    refine .trans ?_ (setWidth_setWidth_eq_and v 16 (by decide))
    exact congrArg (BitVec.setWidth 32) ((getD_setIfInBounds _ _ _ _ _).trans (if_pos ⟨rfl, hr⟩))
  | cmd | status | config | outLen | charOut | reserved => rfl

/-- A byte of another word reads as before (20 R63). -/
theorem readByte_writeReg_other (s : State) (off a : Nat) (v : Word) (haligned : off % 4 = 0) (ha : a / 4 ≠ off / 4) :
    readByte (writeReg s (regAt off) v) a = readByte s a := by
  unfold readByte
  congr 1
  by_cases hr : regAt (a / 4 * 4) = regAt off
  · obtain h | h := regAt_injective _ off (by omega) haligned hr
    · omega
    · rw [h]; rfl
  · exact readReg_writeReg_other s _ _ v hr

/-- Settles O12: the write reaches the host port's `writeReg`, whose frame is one register. -/
theorem hostWriteStoresOneRegister : Obligations.HostWriteStoresOneRegister := by
  intro s rest off v hoff haligned hne released hbus idle
  have hcmd : regAt off ≠ .cmd := mt (regAt_eq_cmd off).1 hne
  refine ⟨writeReg { s with bus := rest } (regAt off) v, ?_, ?_, ?_, ?_⟩
  · rw [step_write s rest off v hoff haligned hbus released]
    exact hostWrite_reg _ v _ idle hcmd
  · rw [readReg_writeReg_same _ _ _ (regAt_standsAt off).1]
    cases regAt off <;> rfl
  · intro a _ ha
    rw [readByte_writeReg_other _ off a v haligned ha]
    unfold readByte
    cases regAt (a / 4 * 4) <;> rfl
  · simp

/-! ### Reset -/

/-- Settles O14. -/
theorem resetTable : Obligations.ResetTable := by
  intro c hp
  have hconfig : readReg (State.resetWith c) .config = BitVec.ofNat 32 c.p := by
    simp [readReg, State.resetWith, Nat.mod_eq_of_lt hp]
  refine ⟨rfl, hconfig, rfl, rfl, rfl, fun k hk => ?_, fun k hk => ?_, fun k hk => ?_, rfl, rfl, rfl, rfl,
    fun k hk => ?_, fun k hk => ?_, rfl, rfl, rfl⟩
  all_goals simp [State.resetWith, getD_replicate, hk]

end Sys2Proof.Machine
end

section
/-! PROOFS. The byte unpacker of an id 0 record, arrow by arrow (43 R209, R214). -/

namespace Sys2Proof.Machine

/-! ### Runs of arrows -/

theorem arrows_succ_last (n : Nat) (s : State) : arrows (n + 1) s = arrow (arrows n s) := by
  induction n generalizing s with
  | zero => rfl
  | succ n ih => exact ih (arrow s)

/-! ### The arrows of an id 0 record -/

/-- DEC_CHECK of a record that passes every test goes on to DEC_UNPACK (43 R214). -/
theorem arrow_decCheck_utf8 (s : State) (hfsm : s.fsm = .decCheck) (htag : hdrTag s.hdr = 0b10#2)
    (hid : hdrId s.hdr = 0#4) (hpayload : payloadValue s ≠ 0) (hlen : (hdrLen s.hdr).toNat ≤ s.cfg.p / 8) :
    arrow s = { s with fsm := .decUnpack, acc := payloadValue s, i := hdrLen s.hdr - 1 } := by
  have hcap : ¬maxLength s.cfg .utf8 < (hdrLen s.hdr).toNat := Nat.not_lt.2 hlen
  have hval : ¬brReadAll (payloadValue s) (2 ^ s.cfg.p - 1) = 0 := by rwa [payload_readAll]
  simp only [arrow, hfsm, arrowDecCheck]
  rw [if_neg (not_not.2 (show hdrTag s.hdr = 0b10 from htag)), if_neg hval]
  simp [hid, alphabetOfId, hcap]

/-- One arrow takes one byte off the low end of ACC (43 R209). -/
theorem arrow_decUnpack_byte (s : State) (hfsm : s.fsm = .decUnpack) (hid : hdrId s.hdr = 0#4)
    (hi : s.i ≠ indexDone) :
    arrow s =
      { s with
        bytes := s.bytes.setIfInBounds s.i.toNat (BitVec.ofNat 8 (s.acc % 2 ^ 8))
        acc := s.acc / 2 ^ 8
        i := s.i - 1 } := by
  have hbyte : brReadLowByte s.acc (alphabetMask .utf8) = s.acc % 2 ^ 8 := by
    rw [brReadLowByte, alphabetMask, Nat.and_two_pow_sub_one_eq_mod]
    exact Nat.mod_mod _ _
  have hshift : brShiftRight s.acc (alphabetStep .utf8) = s.acc / 2 ^ 8 := Nat.shiftRight_eq_div_pow _ _
  simp [arrow, hfsm, arrowDecUnpack, hid, alphabetOfId, hi, arrowUnpackGroup, hbyte, hshift]

/-- With every byte taken the count is stored (10 R41, log 22). -/
theorem arrow_decUnpack_done (s : State) (hfsm : s.fsm = .decUnpack) (hid : hdrId s.hdr = 0#4) (hi : s.i = indexDone) :
    arrow s = { countBytes s with fsm := .decUtf8 } := by
  simp [arrow, hfsm, arrowDecUnpack, hid, alphabetOfId, hi]

/-- What the arrows of the single bytes reach from `s` with `m` bytes to take: they stand in BYTES, the first most
significant, and nothing else that matters to the record has changed. -/
structure BytesTaken (m : Nat) (s t : State) : Prop where
  fsm : t.fsm = .decUnpack
  i : t.i = indexDone
  hdr : t.hdr = s.hdr
  status : t.status = s.status
  taken : ∀ k < m, t.bytes.getD k 0 = BitVec.ofNat 8 (groupAt 8 m s.acc k)
  kept : ∀ k, m ≤ k → t.bytes.getD k 0 = s.bytes.getD k 0

/-- The last of `m + 1` code groups is the low one; the others are those of the number shifted down (30 R86). -/
theorem groupAt_succ (w m payload k : Nat) (hk : k ≤ m) :
    groupAt w (m + 1) payload k = if k = m then payload % 2 ^ w else groupAt w m (payload / 2 ^ w) k := by
  unfold groupAt
  split
  · next h => simp [h]
  · have hexp : (m + 1 - 1 - k) * w = w + (m - 1 - k) * w := by
      rw [show m + 1 - 1 - k = (m - 1 - k) + 1 by omega, Nat.succ_mul, Nat.add_comm]
    rw [hexp, pow_add, Nat.div_div_eq_div_mul]

/-- Induction on the bytes still to take: an arrow takes the last of them (43 R209). -/
theorem arrows_take_bytes (m : Nat) (s : State) (hm : m ≤ 63) (hfsm : s.fsm = .decUnpack) (hid : hdrId s.hdr = 0#4)
    (hi : s.i = BitVec.ofNat 6 m - 1) : BytesTaken m s (arrows m s) := by
  induction m generalizing s with
  | zero => exact ⟨hfsm, hi, rfl, rfl, fun k hk => absurd hk (Nat.not_lt_zero k), fun _ _ => rfl⟩
  | succ m ih =>
    have hidx : s.i = BitVec.ofNat 6 m := by
      rw [hi, BitVec.ofNat_add]
      exact BitVec.add_sub_cancel _ _
    have hnat : s.i.toNat = m := by rw [hidx, BitVec.toNat_ofNat, Nat.mod_eq_of_lt (by omega)]
    have hne : s.i ≠ indexDone := by
      intro h
      have : s.i.toNat = 63 := congrArg BitVec.toNat h
      omega
    have hstep := arrow_decUnpack_byte s hfsm hid hne
    rw [hnat] at hstep
    change BytesTaken (m + 1) s (arrows m (arrow s))
    rw [hstep]
    obtain ⟨tfsm, ti, thdr, tstatus, ttaken, tkept⟩ :=
      ih { s with
           bytes := s.bytes.setIfInBounds m (BitVec.ofNat 8 (s.acc % 2 ^ 8)), acc := s.acc / 2 ^ 8, i := s.i - 1 }
        (by omega) hfsm hid (congrArg (· - 1) hidx)
    refine ⟨tfsm, ti, thdr, tstatus, fun k hk => ?_, fun k hk => ?_⟩
    · rw [groupAt_succ 8 m s.acc k (by omega)]
      split
      · next h => rw [tkept k (by omega), getD_setIfInBounds, if_pos ⟨h.symm, by omega⟩]
      · exact ttaken k (by omega)
    · rw [tkept k (by omega), getD_setIfInBounds, if_neg (by omega)]

/-- Settles O60: one arrow of DEC_CHECK, one for each byte, and the arrow that stores the count. -/
theorem byteUnpackerFillsBytesAndCount : Obligations.ByteUnpackerFillsBytesAndCount := by
  intro s hfsm htag hid hpayload hlen n t
  have hn : n ≤ 63 := Nat.le_of_lt_succ (hdrLen s.hdr).isLt
  have hcheck := arrow_decCheck_utf8 s hfsm htag hid hpayload hlen
  have hhdr : (arrow s).hdr = s.hdr := by rw [hcheck]
  have hacc : (arrow s).acc = payloadValue s := by rw [hcheck]
  have hbytes : (arrow s).bytes = s.bytes := by rw [hcheck]
  have hstatus : (arrow s).status = s.status := by rw [hcheck]
  have hi : (arrow s).i = BitVec.ofNat 6 n - 1 := by rw [hcheck, BitVec.ofNat_toNat, BitVec.setWidth_eq]
  obtain ⟨ufsm, ui, uhdr, ustatus, utaken, ukept⟩ :=
    arrows_take_bytes n (arrow s) hn (by rw [hcheck]) (by rw [hhdr]; exact hid) hi
  rw [hhdr] at uhdr
  rw [hacc] at utaken
  rw [hbytes] at ukept
  have ht : t = { countBytes (arrows n (arrow s)) with fsm := .decUtf8 } := by
    change arrows (n + 1) (arrow s) = _
    rw [arrows_succ_last, arrow_decUnpack_done _ ufsm (by rw [uhdr]; exact hid) ui]
  rw [ht]
  refine ⟨rfl, ?_, utaken, fun k hk _ => ukept k hk, ustatus.trans hstatus⟩
  change ((hdrLen (arrows n (arrow s)).hdr).setWidth 8).toNat = n
  rw [uhdr, BitVec.toNat_setWidth_of_le (by decide)]

end Sys2Proof.Machine
end

section
/-! PROOFS. The register space as a host sees it: which register stands at which offset, what a host read returns, and
that no arrow inside a command changes what it returns. -/

namespace Sys2Proof.Machine

/-! ### What an arrow inside a command shows a host (20 R69, R70) -/

/-- From `s` to `t` only the engine's internal registers were written: its state, the working registers and the pending
results (20 R69). -/
def OnlyInternalWritten (s t : State) : Prop :=
  t = { s with
        fsm := t.fsm, acc := t.acc, cand := t.cand, cls := t.cls, bytes := t.bytes, nbytes := t.nbytes, i := t.i
        tryid := t.tryid, hdrNext := t.hdrNext, nNext := t.nNext, outNext := t.outNext }

/-- No register of the map is internal (20 R70). -/
theorem OnlyInternalWritten.readReg_eq {s t : State} (h : OnlyInternalWritten s t) (r : Reg) :
    readReg t r = readReg s r := by
  rw [h]
  cases r <;> rfl

theorem OnlyInternalWritten.readByte_eq {s t : State} (h : OnlyInternalWritten s t) (a : Nat) :
    readByte t a = readByte s a :=
  congrArg (fun w => field w (8 * (a % 4)) 8) (h.readReg_eq _)

/-- The two things an arrow can do: end the command, or write internal registers only. -/
inductive ArrowEffect (s : State) : State → Prop where
  | ended {t : State} (idle : t.status.busy = false) : ArrowEffect s t
  | hidden {t : State} (h : OnlyInternalWritten s t) : ArrowEffect s t

section Arrows

variable (s : State)

theorem arrowEncGate_effect : ArrowEffect s (arrowEncGate s) := by
  unfold arrowEncGate
  split
  · exact .ended rfl
  split
  · exact .hidden rfl
  split <;> exact .hidden rfl

theorem arrowEncLatin1_effect : ArrowEffect s (arrowEncLatin1 s) := by
  unfold arrowEncLatin1
  split
  · exact .hidden rfl
  split <;> exact .hidden rfl

theorem arrowEncUtf8_effect : ArrowEffect s (arrowEncUtf8 s) := by
  unfold arrowEncUtf8
  split
  · exact .ended rfl
  split
  · exact .hidden rfl
  · exact .ended rfl

theorem arrowEncClassify_effect : ArrowEffect s (arrowEncClassify s) := by
  unfold arrowEncClassify
  split <;> exact .hidden rfl

theorem arrowEncTry_effect : ArrowEffect s (arrowEncTry s) := by
  unfold arrowEncTry
  split
  · exact .ended rfl
  split
  · split <;> exact .hidden rfl
  · exact .hidden rfl

theorem arrowEncPack_effect : ArrowEffect s (arrowEncPack s) := by
  unfold arrowEncPack
  split
  · exact .hidden rfl
  split
  · exact .hidden rfl
  split
  · exact .hidden rfl
  · exact .hidden rfl
  · exact .ended rfl

theorem arrowDecCheck_effect : ArrowEffect s (arrowDecCheck s) := by
  unfold arrowDecCheck
  split
  · exact .ended rfl
  split
  · exact .hidden rfl
  split
  · exact .ended rfl
  split
  · exact .ended rfl
  · exact .hidden rfl

theorem arrowUnpackGroup_effect (a : Alphabet) : ArrowEffect s (arrowUnpackGroup s a) := by
  unfold arrowUnpackGroup
  cases a with
  | utf8 | latin1 => exact .hidden rfl
  | _ =>
    dsimp only
    split
    · exact .hidden rfl
    · exact .ended rfl

theorem arrowDecUnpack_effect : ArrowEffect s (arrowDecUnpack s) := by
  unfold arrowDecUnpack
  split
  · exact .ended rfl
  split
  · split <;> exact .hidden rfl
  · exact arrowUnpackGroup_effect s _

theorem arrowDecUtf8_effect : ArrowEffect s (arrowDecUtf8 s) := by
  unfold arrowDecUtf8
  split
  · exact .ended rfl
  · exact .hidden rfl

/-- COMMIT is the last arrow: both commits finish (42 R183, 43 R210). -/
theorem arrowCommit_effect : ArrowEffect s (arrowCommit s) := by
  unfold arrowCommit
  split <;> exact .ended rfl

/-- In every engine state an arrow ends the command or writes internal registers only. -/
theorem arrow_effect : ArrowEffect s (arrow s) := by
  unfold arrow
  cases s.fsm with
  | idle | fault => exact .hidden rfl
  | encGate => exact arrowEncGate_effect s
  | encLatin1 => exact arrowEncLatin1_effect s
  | encUtf8 => exact arrowEncUtf8_effect s
  | encClassify => exact arrowEncClassify_effect s
  | encTry => exact arrowEncTry_effect s
  | encPack => exact arrowEncPack_effect s
  | decCheck => exact arrowDecCheck_effect s
  | decUnpack => exact arrowDecUnpack_effect s
  | decUtf8 => exact arrowDecUtf8_effect s
  | badCmd => exact .ended rfl
  | commit => exact arrowCommit_effect s

end Arrows

/-- Settles O56: an arrow that does not end the command writes internal registers only, and none of these is read. -/
theorem arrowsHideResultsUntilTheLast : Obligations.ArrowsHideResultsUntilTheLast := by
  intro s _ hbusy
  cases arrow_effect s with
  | ended idle => rw [idle] at hbusy; cases hbusy
  | hidden h => exact ⟨h.readReg_eq, fun a _ => h.readByte_eq a⟩

/-! ### The register map (20 R61, R62) -/

theorem regAt_payload (k : Nat) (hk : k < 16) : regAt (0x040 + 4 * k) = .payload k := by
  have hidx : (0x040 + 4 * k - 0x040) / 4 = k := by omega
  simp (disch := omega) only [regAt, if_neg, if_pos, hidx]

theorem regAt_charIn (k : Nat) (hk : k < 64) : regAt (0x100 + 4 * k) = .charIn k := by
  have hidx : (0x100 + 4 * k - 0x100) / 4 = k := by omega
  simp (disch := omega) only [regAt, if_neg, if_pos, hidx]

theorem regAt_charOut (k : Nat) (hk : k < 64) : regAt (0x200 + 4 * k) = .charOut k := by
  have hidx : (0x200 + 4 * k - 0x200) / 4 = k := by omega
  simp (disch := omega) only [regAt, if_neg, if_pos, hidx]

/-- The gaps of the map and everything from its end on (20 R62). -/
theorem regAt_reserved (off : Nat)
    (h : 0x018 ≤ off ∧ off < 0x040 ∨ 0x080 ≤ off ∧ off < 0x100 ∨ 0x300 ≤ off) : regAt off = .reserved := by
  simp (disch := omega) only [regAt, if_neg]

/-- Settles O10. -/
theorem registerMap : Obligations.RegisterMap :=
  ⟨regAt_zero, rfl, rfl, rfl, rfl, rfl, regAt_payload, regAt_charIn, regAt_charOut,
    fun off _ _ h => regAt_reserved off h⟩

/-! ### Host reads (20 R65) -/

/-- A 32-bit read of a word of the register space returns the register there, whether the block is busy or not. -/
theorem step_read (s : State) (rest : List Event) (off : Nat) (hoff : off < 4096) (haligned : off % 4 = 0)
    (hbus : s.bus = .host (.read (s.cfg.base + off) 4) :: rest) (released : s.inReset = false) :
    step s = .next (hostRead (regAt off) { s with bus := rest }) := by
  rw [step_of_bus_cons s _ rest hbus]
  simp [eventStep, hostStep, accessOffset, portOffset_of_aligned, hoff, haligned, released, serveAccess]

/-- No register shows the queue. -/
theorem readReg_bus (s : State) (rest : List Event) (r : Reg) : readReg { s with bus := rest } r = readReg s r := by
  cases r <;> rfl

/-! ### The fields of STATUS (10 R22) -/

theorem getLsbD_ofNat_of_digit (x i : Nat) (b : Bool) (hi : i < 32) (h : x / 2 ^ i % 2 = b.toNat) :
    (BitVec.ofNat 32 x).getLsbD i = b := by
  rw [BitVec.getLsbD_ofNat, Nat.testBit_eq_decide_div_mod_eq, h]
  cases b <;> simp [hi]

theorem extractLsb'_ofNat_of_digit (x lo w : Nat) (v : BitVec w) (hx : x < 2 ^ 32) (h : x / 2 ^ lo % 2 ^ w = v.toNat) :
    (BitVec.ofNat 32 x).extractLsb' lo w = v := by
  apply BitVec.eq_of_toNat_eq
  rw [BitVec.extractLsb'_toNat, BitVec.toNat_ofNat, Nat.mod_eq_of_lt hx, Nat.shiftRight_eq_div_pow, h]

/-- STATUS holds its six fields in their places, and 0 above them. -/
theorem statusWord_fields (st : Status) :
    (statusWord st).getLsbD 0 = st.busy ∧ (statusWord st).getLsbD 1 = st.done ∧
    (statusWord st).getLsbD 2 = st.ok ∧ (statusWord st).getLsbD 3 = st.fault ∧
    (statusWord st).extractLsb' 4 4 = st.result ∧ (statusWord st).getLsbD 8 = st.ovr ∧
    (statusWord st).extractLsb' 9 23 = 0#23 := by
  have hbusy := st.busy.toNat_lt
  have hdone := st.done.toNat_lt
  have hok := st.ok.toNat_lt
  have hfault := st.fault.toNat_lt
  have hresult := st.result.isLt
  have hovr := st.ovr.toNat_lt
  have hrest : (0#23).toNat = 0 := rfl
  unfold statusWord
  refine ⟨getLsbD_ofNat_of_digit _ _ _ (by decide) ?_, getLsbD_ofNat_of_digit _ _ _ (by decide) ?_,
    getLsbD_ofNat_of_digit _ _ _ (by decide) ?_, getLsbD_ofNat_of_digit _ _ _ (by decide) ?_,
    extractLsb'_ofNat_of_digit _ _ _ _ ?_ ?_, getLsbD_ofNat_of_digit _ _ _ (by decide) ?_,
    extractLsb'_ofNat_of_digit _ _ _ _ ?_ ?_⟩
  all_goals omega

/-- A legal width fits the ten bits of CONFIG (10 R29). -/
theorem readReg_config (s : State) (hp : s.cfg.p < 1024) : readReg s .config = BitVec.ofNat 32 s.cfg.p :=
  congrArg (BitVec.ofNat 32) (Nat.mod_eq_of_lt hp)

/-- Settles O11: the step of a read, and what each register reads as. -/
theorem hostReadChangesNoRegister : Obligations.HostReadChangesNoRegister := by
  refine ⟨fun s rest off hoff haligned released hbus => ?_, fun s => ?_⟩
  · rw [step_read s rest off hoff haligned hbus released, hostRead, readReg_bus]
  · obtain ⟨hbusy, hdone, hok, hfault, hresult, hovr, hrest⟩ := statusWord_fields s.status
    exact ⟨rfl, rfl, hbusy, hdone, hok, hfault, hresult, hovr, hrest, readReg_config s, rfl, rfl, rfl,
      fun _ _ => rfl, fun _ _ => rfl, fun _ _ => rfl⟩

end Sys2Proof.Machine
end

section
/-! PROOFS. The two encodings: the dispatch table of record headers as one relation, which the decoder and the encoder
both follow (30 R82, R83, R85). -/

namespace Sys2Proof.Machine

/-! ### The fields of a header (30 R83, 43 R201) -/

theorem field_headerWord (tag : BitVec 2) (id : BitVec 4) (len : BitVec 6) :
    field (headerWord tag id len) 10 2 = tag ∧ field (headerWord tag id len) 6 4 = id ∧
    field (headerWord tag id len) 0 6 = len := by
  refine ⟨?_, ?_, ?_⟩ <;> ext k hk <;> simp only [headerWord, field] <;> grind

@[simp] theorem hdrTag_headerWord (tag : BitVec 2) (id : BitVec 4) (len : BitVec 6) :
    hdrTag (headerWord tag id len) = tag := (field_headerWord tag id len).1

@[simp] theorem hdrId_headerWord (tag : BitVec 2) (id : BitVec 4) (len : BitVec 6) :
    hdrId (headerWord tag id len) = id := (field_headerWord tag id len).2.1

@[simp] theorem hdrLen_headerWord (tag : BitVec 2) (id : BitVec 4) (len : BitVec 6) :
    hdrLen (headerWord tag id len) = len := (field_headerWord tag id len).2.2

/-- A header is its three fields and nothing else. -/
theorem headerWord_fields (h : BitVec 12) : headerWord (hdrTag h) (hdrId h) (hdrLen h) = h := by
  ext k hk
  simp only [hdrTag, hdrId, hdrLen, headerWord, field]
  grind

/-! ### Alphabet ids (40 R100, 00 R10) -/

theorem alphabetId_le (a : Alphabet) : alphabetId a ≤ 10 := by cases a <;> decide

@[simp] theorem alphabetOfId_alphabetId (a : Alphabet) : alphabetOfId (alphabetId a) = some a := by cases a <;> rfl

theorem toNat_ofNat_alphabetId (a : Alphabet) : (BitVec.ofNat 4 (alphabetId a)).toNat = alphabetId a := by
  have := alphabetId_le a
  rw [BitVec.toNat_ofNat, Nat.mod_eq_of_lt (by omega)]

/-- The ids without an alphabet are those from 11 on. -/
theorem alphabetOfId_eq_none (n : Nat) : alphabetOfId n = none ↔ 11 ≤ n := by
  constructor
  · intro h
    by_contra hlt
    have hsome : ∀ m < 11, alphabetOfId m ≠ none := by decide
    exact hsome n (by omega) h
  · intro h
    obtain ⟨m, rfl⟩ := Nat.exists_eq_add_of_le' h
    rfl

theorem alphabetId_of_alphabetOfId (n : Nat) (a : Alphabet) (h : alphabetOfId n = some a) : alphabetId a = n := by
  unfold alphabetOfId at h
  split at h <;> cases h <;> rfl

/-- An ID is that of an alphabet, or 11, or one of 12 to 15. -/
theorem id_cases (id : BitVec 4) :
    (∃ a, id = BitVec.ofNat 4 (alphabetId a)) ∨ id = 11#4 ∨ 12 ≤ id.toNat := by
  cases ha : alphabetOfId id.toNat with
  | some a => exact .inl ⟨a, by rw [alphabetId_of_alphabetOfId _ _ ha, BitVec.ofNat_toNat, BitVec.setWidth_eq]⟩
  | none =>
    obtain heq | hlt := Nat.eq_or_lt_of_le ((alphabetOfId_eq_none _).1 ha)
    · exact .inr (.inl (BitVec.eq_of_toNat_eq heq.symm))
    · exact .inr (.inr hlt)

/-! ### The dispatch table (30 R85) -/

/-- A header and the row it stands for, one constructor per group of rows of the table of 30 R85. -/
inductive HeaderRow : BitVec 12 → Instr → Prop where
  | foreign00 (id : BitVec 4) (len : BitVec 6) : HeaderRow (headerWord 0b00#2 id len) (.decForeign00 id len)
  | foreign01 (id : BitVec 4) (len : BitVec 6) : HeaderRow (headerWord 0b01#2 id len) (.decForeign01 id len)
  | foreign11 (id : BitVec 4) (len : BitVec 6) : HeaderRow (headerWord 0b11#2 id len) (.decForeign11 id len)
  | alphabet (a : Alphabet) (len : BitVec 6) :
      HeaderRow (headerWord 0b10#2 (BitVec.ofNat 4 (alphabetId a)) len) (rowOf a len)
  | badId11 (len : BitVec 6) : HeaderRow (headerWord 0b10#2 11#4 len) (.decBadId11 len)
  | badId12to15 (id : BitVec 4) (len : BitVec 6) (h : 12 ≤ id.toNat) :
      HeaderRow (headerWord 0b10#2 id len) (.decBadId12to15 id len)

/-- Every header has a row: by its TAG and, under the tag of this format, by its ID. -/
theorem HeaderRow.total (h : BitVec 12) : ∃ i, HeaderRow h i := by
  rw [← headerWord_fields h]
  have htag : ∀ tag : BitVec 2, tag = 0b00#2 ∨ tag = 0b01#2 ∨ tag = 0b11#2 ∨ tag = 0b10#2 := by decide
  obtain ht | ht | ht | ht := htag (hdrTag h) <;> rw [ht]
  · exact ⟨_, .foreign00 _ _⟩
  · exact ⟨_, .foreign01 _ _⟩
  · exact ⟨_, .foreign11 _ _⟩
  · obtain ⟨a, hid⟩ | hid | hid := id_cases (hdrId h)
    · rw [hid]; exact ⟨_, .alphabet a _⟩
    · rw [hid]; exact ⟨_, .badId11 _⟩
    · exact ⟨_, .badId12to15 _ _ hid⟩

/-- Every well-formed instruction of the header format is the row of a header. -/
theorem HeaderRow.of_wellFormed (i : Instr) (hwf : i.wellFormed = true) (hfmt : formatOf i = .hdr) :
    ∃ h, HeaderRow h i := by
  cases i with
  | nop | encode | decode | reservedCmd => cases hfmt
  | decForeign00 id len => exact ⟨_, .foreign00 id len⟩
  | decForeign01 id len => exact ⟨_, .foreign01 id len⟩
  | decForeign11 id len => exact ⟨_, .foreign11 id len⟩
  | decUtf8 len => exact ⟨_, .alphabet .utf8 len⟩
  | decNumerical len => exact ⟨_, .alphabet .numerical len⟩
  | decDate len => exact ⟨_, .alphabet .date len⟩
  | decUpper len => exact ⟨_, .alphabet .upper len⟩
  | decLower len => exact ⟨_, .alphabet .lower len⟩
  | decEmail len => exact ⟨_, .alphabet .email len⟩
  | decEmailsym len => exact ⟨_, .alphabet .emailsym len⟩
  | decAlphanum len => exact ⟨_, .alphabet .alphanum len⟩
  | decAlphasym len => exact ⟨_, .alphabet .alphasym len⟩
  | decEuropean len => exact ⟨_, .alphabet .european len⟩
  | decLatin1 len => exact ⟨_, .alphabet .latin1 len⟩
  | decBadId11 len => exact ⟨_, .badId11 len⟩
  | decBadId12to15 id len => exact ⟨_, .badId12to15 id len (of_decide_eq_true hwf)⟩

section Table

variable {h : BitVec 12} {i : Instr} (hrow : HeaderRow h i)
include hrow

theorem HeaderRow.wellFormed : i.wellFormed = true := by
  cases hrow with
  | alphabet a => cases a <;> rfl
  | badId12to15 _ _ hid => exact decide_eq_true hid
  | _ => rfl

theorem HeaderRow.formatOf_eq : formatOf i = .hdr := by
  cases hrow with
  | alphabet a => cases a <;> rfl
  | _ => rfl

/-- The encoder writes the header whose row it is given. -/
theorem HeaderRow.encodeWord_eq : encodeWord i = h.setWidth 32 := by
  cases hrow with
  | alphabet a => cases a <;> rfl
  | _ => rfl

/-- The decoder reads the row of a header. -/
theorem HeaderRow.decodeHdr_eq : decodeHdr h = i := by
  cases hrow with
  | badId12to15 id len hid =>
    obtain ⟨htag, hid', hlen⟩ := field_headerWord 0b10#2 id len
    have hcases : ∀ id : BitVec 4, 12 ≤ id.toNat → id = 12#4 ∨ id = 13#4 ∨ id = 14#4 ∨ id = 15#4 := by decide
    dsimp only [decodeHdr]
    rw [htag, hid', hlen]
    obtain rfl | rfl | rfl | rfl := hcases id hid <;> rfl
  | alphabet a len =>
    obtain ⟨htag, hid, hlen⟩ := field_headerWord 0b10#2 (BitVec.ofNat 4 (alphabetId a)) len
    dsimp only [decodeHdr]
    rw [htag, hid, hlen]
    cases a <;> rfl
  | foreign00 id len | foreign01 id len | foreign11 id len | badId11 len =>
    dsimp only [decodeHdr]
    simp only [field_headerWord]
    rfl

end Table

theorem headerRow_decodeHdr (h : BitVec 12) : HeaderRow h (decodeHdr h) := by
  obtain ⟨i, hrow⟩ := HeaderRow.total h
  rwa [hrow.decodeHdr_eq]

/-! ### The command words (30 R82) -/

/-- OP is the two low bits of a CMD word. -/
theorem op_toNat (v : Word) : (field v 0 2).toNat = (v &&& 3#32).toNat := by
  rw [BitVec.toNat_and, show (3#32).toNat = 2 ^ 2 - 1 from rfl, Nat.and_two_pow_sub_one_eq_mod]
  simp [field]

/-- Settles O3. -/
theorem commandDecoderMatchesLowTwoBits : Obligations.CommandDecoderMatchesLowTwoBits := by
  intro v
  unfold decodeCmd
  rw [op_toNat]
  refine ⟨fun h => ?_, fun h => ?_, fun h => ?_, fun h => ?_⟩ <;> rw [h] <;> rfl

/-! ### The decoder and the encoder agree -/

/-- Settles O4: each clause is a line of the dispatch table. -/
theorem headerFieldsSelectTheirRow : Obligations.HeaderFieldsSelectTheirRow := fun id len =>
  ⟨(HeaderRow.foreign00 id len).decodeHdr_eq, (HeaderRow.foreign01 id len).decodeHdr_eq,
    (HeaderRow.foreign11 id len).decodeHdr_eq, fun a => (HeaderRow.alphabet a len).decodeHdr_eq,
    (HeaderRow.badId11 len).decodeHdr_eq, fun h => (HeaderRow.badId12to15 id len h).decodeHdr_eq⟩

/-- Settles O2: the row a header is decoded to stands beside it in the dispatch table. -/
theorem everyHeaderEncodesItsRow : Obligations.EveryHeaderEncodesItsRow := fun h =>
  have hrow := headerRow_decodeHdr h
  ⟨hrow.wellFormed, hrow.formatOf_eq, hrow.encodeWord_eq⟩

theorem decodeWord_encodeWord (i : Instr) (hwf : i.wellFormed = true) :
    decodeWord (formatOf i) (encodeWord i) = i := by
  cases hfmt : formatOf i with
  | cmd =>
    cases i with
    | nop | encode | decode | reservedCmd => rfl
    | _ => cases hfmt
  | hdr =>
    obtain ⟨h, hrow⟩ := HeaderRow.of_wellFormed i hwf hfmt
    rw [hrow.encodeWord_eq, decodeWord_hdr_setWidth, hrow.decodeHdr_eq]

/-- Settles O1: the four bytes are put together again, and the word holds the instruction. -/
theorem encodeThenDecodeIsIdentity : Obligations.EncodeThenDecodeIsIdentity := by
  intro i hwf
  rw [Sys2Proof.encode, decode_bytesOfWord, decodeWord_encodeWord i hwf]

/-- Settles O5. -/
theorem writtenOutWordsDecode : Obligations.WrittenOutWordsDecode :=
  ⟨rfl, rfl, rfl, rfl, rfl, rfl⟩

/-- Settles O38. -/
theorem decodeRunsTheRowOfItsHeader : Obligations.DecodeRunsTheRowOfItsHeader := exec_decode

end Sys2Proof.Machine
end

section
/-! PROOFS. What a command reads: ENCODE the string in CHAR_IN, DECODE the header and the payload bits below P (30 R87),
and that two states with the same operands have the same end. -/

namespace Sys2Proof.Machine

/-! ### The payload, bit by bit (10 R33) -/

theorem sumWords_lt (v : Vector Word 16) (n : Nat) : sumWords v n < 2 ^ (32 * n) := by
  induction n with
  | zero => exact Nat.one_pos
  | succ n ih =>
    have hword : (v.getD n 0).toNat * 2 ^ (32 * n) ≤ (2 ^ 32 - 1) * 2 ^ (32 * n) :=
      Nat.mul_le_mul_right _ (Nat.le_sub_one_of_lt (v.getD n 0).isLt)
    have hpow : 2 ^ (32 * (n + 1)) = 2 ^ 32 * 2 ^ (32 * n) := by rw [← pow_add]; congr 1; omega
    rw [sumWords, Nat.shiftLeft_eq, hpow]
    omega

/-- Bit `j` of the first `n` words is bit `j mod 32` of word `j / 32`. -/
theorem sumWords_testBit (v : Vector Word 16) (n j : Nat) :
    (sumWords v n).testBit j = (decide (j < 32 * n) && (v.getD (j / 32) 0).getLsbD (j % 32)) := by
  induction n with
  | zero => simp [sumWords]
  | succ n ih =>
    rw [sumWords, Nat.shiftLeft_eq, Nat.mul_comm, Nat.add_comm, Nat.testBit_two_pow_mul_add _ (sumWords_lt v n)]
    split
    · rw [ih]
      simp [show j < 32 * n by omega, show j < 32 * (n + 1) by omega]
    · by_cases hj : j < 32 * (n + 1)
      · rw [show j / 32 = n by omega, show j % 32 = j - 32 * n by omega]
        simp [hj, BitVec.getLsbD]
      · have hlt : (v.getD n 0).toNat < 2 ^ (j - 32 * n) :=
          lt_of_lt_of_le (v.getD n 0).isLt (Nat.pow_le_pow_right (by decide) (by omega))
        rw [Nat.testBit_lt_two_pow hlt]
        simp [hj]

/-- The payload integer is the PAYLOAD bits below P. -/
theorem payloadValue_testBit (s : State) (j : Nat) :
    (payloadValue s).testBit j = (decide (j < s.cfg.p) && (s.payload.getD (j / 32) 0).getLsbD (j % 32)) := by
  rw [payloadValue, Nat.testBit_mod_two_pow, sumWords_testBit]
  by_cases hj : j < s.cfg.p
  · have hcount : j < 32 * payloadWordCount s.cfg := by unfold payloadWordCount; omega
    simp [hj, hcount]
  · simp [hj]

theorem payloadValue_congr (s s' : State) (hcfg : s'.cfg = s.cfg)
    (hbits : ∀ j < s.cfg.p,
      (s'.payload.getD (j / 32) 0).getLsbD (j % 32) = (s.payload.getD (j / 32) 0).getLsbD (j % 32)) :
    payloadValue s' = payloadValue s := by
  apply Nat.eq_of_testBit_eq
  intro j
  rw [payloadValue_testBit, payloadValue_testBit, hcfg]
  by_cases hj : j < s.cfg.p
  · rw [hbits j hj]
  · simp [hj]

/-! ### The string (30 R87) -/

theorem stringUnits_congr (s s' : State) (hlen : s'.inLen = s.inLen)
    (hchars : ∀ k < s.inLen.toNat, charAt s' k = charAt s k) : stringUnits s' = stringUnits s := by
  unfold stringUnits stringLength
  rw [hlen]
  refine List.ext_getElem (by simp) fun k hk _ => ?_
  have hk' : k < s.inLen.toNat ∧ k < 64 := by simpa using hk
  simpa [charAt, Vector.getD, hk'.2] using hchars k hk'.1

/-! ### DECODE as one function (43 R200) -/

/-- A row with a defined id runs its alphabet. -/
theorem exec_rowOf (a : Alphabet) (len : BitVec 6) (s : State) :
    exec (rowOf a len) s = .next (rowAlphabet a len s) := by cases a <;> rfl

/-- A row with a defined id does what `dec` says of its header. -/
theorem rowAlphabet_eq_dec (a : Alphabet) (len : BitVec 6) (s : State) :
    rowAlphabet a len s =
      applyDecResult
        (dec s.cfg (headerWord 0b10#2 (BitVec.ofNat 4 (alphabetId a)) len) (payloadValue s)) s := by
  simp only [rowAlphabet, dec, hdrTag_headerWord, hdrId_headerWord, hdrLen_headerWord, toNat_ofNat_alphabetId,
    alphabetOfId_alphabetId, ne_eq]
  split
  · rfl
  · split <;> rfl

/-- A row with an undefined id does what `dec` says of its header. -/
theorem rowBadId_eq_dec (id : BitVec 4) (len : BitVec 6) (s : State) (hid : 11 ≤ id.toNat) :
    rowBadId s = applyDecResult (dec s.cfg (headerWord 0b10#2 id len) (payloadValue s)) s := by
  simp only [rowBadId, dec, hdrTag_headerWord, hdrId_headerWord, (alphabetOfId_eq_none _).2 hid, ne_eq]
  split <;> rfl

/-- A foreign tag is the first thing `dec` tests. -/
theorem dec_foreign (c : Config) (h : BitVec 12) (payload : Nat) (htag : hdrTag h ≠ 0b10#2) :
    dec c h payload = .foreign := if_pos htag

/-- Each row of the dispatch table does what `dec` says of its header. -/
theorem HeaderRow.exec_eq {h : BitVec 12} {i : Instr} (hrow : HeaderRow h i) (s : State) :
    exec i s = .next (applyDecResult (dec s.cfg h (payloadValue s)) s) := by
  cases hrow with
  | foreign00 id len | foreign01 id len | foreign11 id len =>
    rw [dec_foreign _ _ _ (by rw [hdrTag_headerWord]; decide)]
    rfl
  | alphabet a len => rw [exec_rowOf, rowAlphabet_eq_dec]
  | badId11 len => exact congrArg _ (rowBadId_eq_dec _ len s (by decide))
  | badId12to15 id len hid => exact congrArg _ (rowBadId_eq_dec id len s (by omega))

theorem exec_decode_eq_dec (s : State) :
    exec .decode s = .next (applyDecResult (dec s.cfg s.hdr (payloadValue s)) s) := by
  rw [exec_decode, (headerRow_decodeHdr s.hdr).exec_eq]

/-! ### The end of a command, carried to another state (60 R252, R254) -/

theorem resultBits_of_dec_fatal (c : Config) (h : BitVec 12) (payload : Nat) (r : ResultCode)
    (hdec : dec c h payload = .fatal r) : 8 ≤ (resultBits r).toNat := by
  unfold dec at hdec
  split at hdec
  · cases hdec
  split at hdec
  · cases hdec
  split at hdec
  · cases hdec; decide
  split at hdec
  · cases hdec; decide
  next a _ _ =>
    obtain ⟨us, hr, _⟩ | hr | hr := decodePayload_cases c a (hdrLen h).toNat payload
    all_goals rw [hr] at hdec; cases hdec
    · decide
    · decide

theorem resultBits_of_select_fatal (c : Config) (L : Nat) (us : List CodeUnit) (r : ResultCode)
    (hsel : select c L us = .fatal r) : 8 ≤ (resultBits r).toNat := by
  obtain rfl | rfl := select_fatal_code _ _ _ _ hsel <;> decide

theorem resultBits_ne_zero_of_fatal (r : ResultCode) (hr : 8 ≤ (resultBits r).toNat) : resultBits r ≠ 0 := by
  intro h
  rw [h] at hr
  exact absurd hr (by decide)

/-- STATUS `st'` with the end of a command that STATUS `st` shows: DONE, OK and RESULT from `st`, FAULT set by a fatal
result and kept otherwise, OVR kept. -/
def endCarriedTo (st st' : Status) : Status :=
  { st with fault := st'.fault || decide (8 ≤ st.result.toNat), ovr := st'.ovr }

theorem endCarriedTo_finished (r : ResultCode) (hr : (resultBits r).toNat < 8) (st st' : Status) :
    endCarriedTo (statusFinished r st) st' = statusFinished r st' := by
  simp [endCarriedTo, statusFinished, Nat.not_le.2 hr]

theorem endCarriedTo_fatal (r : ResultCode) (hr : 8 ≤ (resultBits r).toNat) (st st' : Status) :
    endCarriedTo (statusFatal r st) st' = statusFatal r st' := by
  simp [endCarriedTo, statusFatal, hr]

theorem SameVisible.of_eq {s t : State} (h : t = s) : SameVisible s t := by
  rw [h]
  constructor <;> rfl

/-- What a selection does to a second state, told by what it does to the first. -/
theorem applySelection_carried (r : Selection) (hfatal : ∀ c, r = .fatal c → 8 ≤ (resultBits c).toNat) (s s' : State) :
    let t := applySelection r s
    applySelection r s' =
      { s' with
        hdr := if t.status.result = 0 then t.hdr else s'.hdr
        payload := if t.status.result = 0 then t.payload else s'.payload
        fsm := t.fsm
        status := endCarriedTo t.status s'.status } := by
  cases r with
  | success a len acc =>
    simp only [applySelection, commitEncode_status, endCarriedTo_finished .success (by decide)]
    rfl
  | nofit =>
    simp only [applySelection, finish_status, endCarriedTo_finished .nofit (by decide)]
    rfl
  | fatal c =>
    have hc := hfatal c rfl
    simp only [applySelection, raiseFatal_status, endCarriedTo_fatal c hc, statusFatal_result, resultBits_ne_zero_of_fatal c hc, if_false]
    rfl

/-- What a result of `dec` does to a second state, told by what it does to the first. -/
theorem applyDecResult_carried (r : DecResult) (hfatal : ∀ c, r = .fatal c → 8 ≤ (resultBits c).toNat) (s s' : State) :
    let t := applyDecResult r s
    applyDecResult r s' =
      { s' with
        outLen := if t.status.result = 0 then t.outLen else s'.outLen
        charOut := if t.status.result = 0 then t.charOut else s'.charOut
        fsm := t.fsm
        status := endCarriedTo t.status s'.status } := by
  cases r with
  | success us =>
    simp only [applyDecResult, commitDecode_status, endCarriedTo_finished .success (by decide)]
    rfl
  | foreign =>
    simp only [applyDecResult, finish_status, endCarriedTo_finished .foreign (by decide)]
    rfl
  | fatal c =>
    have hc := hfatal c rfl
    simp only [applyDecResult, raiseFatal_status, endCarriedTo_fatal c hc, statusFatal_result, resultBits_ne_zero_of_fatal c hc, if_false]
    rfl

/-- Settles O37: both commands compute one result from their operands, and that result ends the command in either
state. -/
theorem commandsReadOnlyTheirOperands : Obligations.CommandsReadOnlyTheirOperands := by
  constructor
  · intro s s' hcfg hlen hchars
    have hsel : select s'.cfg (stringLength s') (stringUnits s') = select s.cfg (stringLength s) (stringUnits s) := by
      rw [hcfg, stringUnits_congr s s' hlen hchars, stringLength, hlen, stringLength]
    refine ⟨_, applySelection (select s.cfg (stringLength s) (stringUnits s)) s', rfl, ?_, ?_⟩
    · rw [← hsel]; rfl
    · exact .of_eq (applySelection_carried _ (resultBits_of_select_fatal _ _ _) s s')
  · intro s s' hcfg hhdr hbits
    have hdec : dec s'.cfg s'.hdr (payloadValue s') = dec s.cfg s.hdr (payloadValue s) := by
      rw [hcfg, hhdr, payloadValue_congr s s' hcfg hbits]
    refine ⟨_, applyDecResult (dec s.cfg s.hdr (payloadValue s)) s', exec_decode_eq_dec s, ?_, ?_⟩
    · rw [← hdec, exec_decode_eq_dec]
    · exact .of_eq (applyDecResult_carried _ (resultBits_of_dec_fatal _ _ _) s s')

end Sys2Proof.Machine
end

section
/-! PROOFS. Host scripts: a WAIT behind a started command, and the register writes of LOADSTR and LOADREC (30 R91). -/

namespace Sys2Proof.Machine

/-! ### Runs -/

theorem core_run_succ (M : Host.Core) (n : Nat) (s t : M.State) (h : M.step s = .next t) :
    M.run (n + 1) s = M.run n t := by
  rw [Host.Core.run, h]

theorem run_succ_of_step (n : Nat) (s t : State) (h : step s = .next t) :
    Sys2Proof.core.run (n + 1) s = Sys2Proof.core.run n t := core_run_succ Sys2Proof.core n s t h

/-! ### WAIT behind a started command -/

/-- The engine's turn at the start of a command ends the command (70 R287). -/
theorem engineStep_start_end (s : State) (busy : s.status.busy = true)
    (hfsm : s.fsm = .encGate ∨ s.fsm = .decCheck ∨ s.fsm = .badCmd) :
    ∃ t, engineStep s = .next t ∧ CommandEnd s t := by
  obtain hf | hf | hf := hfsm
  · obtain ⟨t, ht⟩ := exec_next .encode s
    exact ⟨t, by simp [engineStep, busy, hf, ht], exec_encode_end s t ht⟩
  · obtain ⟨t, ht⟩ := exec_next .decode s
    exact ⟨t, by simp [engineStep, busy, hf, ht], exec_decode_end s t ht⟩
  · exact ⟨raiseFatal .errBadCmd s, by simp only [engineStep, busy, hf]; rfl, .fatal _ (by decide)⟩

/-- What a host sees of the end of a command: STATUS and the engine state; the queue and the reset signal stay. -/
theorem CommandEnd.observable {s t : State} (h : CommandEnd s t) :
    t.status.busy = false ∧ t.status.done = true ∧ (t.fsm = .idle ∨ t.fsm = .fault) ∧ t.inReset = s.inReset ∧
      t.bus = s.bus ∧ t.observed = s.observed := by
  cases h with
  | fatal => exact ⟨rfl, rfl, .inr rfl, rfl, rfl, rfl⟩
  | _ => exact ⟨rfl, rfl, .inl rfl, rfl, rfl, rfl⟩

theorem step_wait (s : State) (rest : List Event) (hbus : s.bus = .wait :: rest) (released : s.inReset = false) :
    step s = .next (waitStep { s with bus := rest }) := by
  rw [step_of_bus_cons s _ rest hbus]
  simp [eventStep, released]

theorem waitStep_busy (s : State) (busy : s.status.busy = true) :
    waitStep s = { hostRead .status s with bus := .engine :: .wait :: s.bus } := if_pos busy

theorem waitStep_idle (s : State) (idle : s.status.busy = false) : waitStep s = hostRead .status s :=
  if_neg (by simp [idle])

/-- A poll while BUSY asks for an engine turn and another poll (30 R91; log 17). -/
theorem step_wait_busy (s : State) (rest : List Event) (hbus : s.bus = .wait :: rest) (released : s.inReset = false)
    (busy : s.status.busy = true) :
    step s =
      .next { s with bus := .engine :: .wait :: rest, observed := statusWord s.status :: s.observed } := by
  rw [step_wait s rest hbus released, waitStep_busy { s with bus := rest } busy]
  rfl

/-- A poll with BUSY = 0 is the last one. -/
theorem step_wait_idle (s : State) (rest : List Event) (hbus : s.bus = .wait :: rest) (released : s.inReset = false)
    (idle : s.status.busy = false) :
    step s = .next { s with bus := rest, observed := statusWord s.status :: s.observed } := by
  rw [step_wait s rest hbus released, waitStep_idle { s with bus := rest } idle]
  rfl

/-- Settles O59: a poll, the engine's turn, a second poll. -/
theorem waitEndsWithTheCommand : Obligations.WaitEndsWithTheCommand := by
  intro s rest hbus released busy hfsm
  obtain ⟨t, hengine, hend⟩ := engineStep_start_end
    { s with bus := .wait :: rest, observed := statusWord s.status :: s.observed } busy hfsm
  obtain ⟨idle, done, hhalt, hreset, htbus, hobs⟩ := hend.observable
  have hpoll := step_wait_busy s rest hbus released busy
  have hturn := (step_engine { s with
    bus := .engine :: .wait :: rest, observed := statusWord s.status :: s.observed } _ rfl released).trans hengine
  have hlast := step_wait_idle t rest htbus (hreset.trans released) idle
  have hrun := (run_succ_of_step 2 _ _ hpoll).trans
    ((run_succ_of_step 1 _ _ hturn).trans (run_succ_of_step 0 _ _ hlast))
  exact ⟨_, hrun, rfl, idle, done, hhalt, congrArg (statusWord t.status :: ·) hobs⟩

/-! ### Runs of register writes -/

/-- Registers and the words written to them, in order. -/
abbrev Writes := List (Reg × Word)

/-- The bus transactions of register writes (30 R90). -/
def writeEvents (c : Config) (ws : Writes) : List Event := ws.map fun w => writeEvent c w.1 w.2

/-- The state after register writes with BUSY = 0. -/
def writeRegs (ws : Writes) (s : State) : State := ws.foldl (fun t w => writeReg t w.1 w.2) s

theorem regOffset_lt (r : Reg) (hr : r.InRange) : regOffset r < 4096 := by
  cases r <;> simp only [Reg.InRange] at hr <;> simp only [regOffset] <;> omega

theorem regOffset_aligned (r : Reg) : regOffset r % 4 = 0 := by
  cases r <;> simp only [regOffset] <;> omega

/-- Every register of the map stands at its own offset (20 R61). -/
theorem regAt_regOffset (r : Reg) (hr : r.InRange) : regAt (regOffset r) = r := by
  cases r with
  | payload k => exact regAt_payload k hr
  | charIn k => exact regAt_charIn k hr
  | charOut k => exact regAt_charOut k hr
  | _ => rfl

/-- One write of a script reaches its register. -/
theorem step_writeEvent (s : State) (rest : List Event) (r : Reg) (v : Word) (hr : r.InRange) (hcmd : r ≠ .cmd)
    (hbus : s.bus = writeEvent s.cfg r v :: rest) (released : s.inReset = false) (idle : s.status.busy = false) :
    step s = .next (writeReg { s with bus := rest } r v) := by
  rw [step_write s rest (regOffset r) v (regOffset_lt r hr) (regOffset_aligned r) hbus released,
    regAt_regOffset r hr, hostWrite_reg _ _ { s with bus := rest } idle hcmd]

/-- A write neither reads nor changes the queue. -/
theorem writeReg_with_bus (s : State) (bus : List Event) (r : Reg) (v : Word) :
    writeReg { s with bus := bus } r v = { writeReg s r v with bus := bus } := by cases r <;> rfl

/-- The writes at the head of the queue are all served, one step for each. -/
theorem run_writeEvents (ws : Writes) (rest : List Event) (n : Nat) (s : State)
    (hws : ∀ w ∈ ws, w.1.InRange ∧ w.1 ≠ .cmd) (hbus : s.bus = writeEvents s.cfg ws ++ rest)
    (released : s.inReset = false) (idle : s.status.busy = false) :
    Sys2Proof.core.run (ws.length + n) s = Sys2Proof.core.run n (writeRegs ws { s with bus := rest }) := by
  induction ws generalizing s with
  | nil =>
    have hs : { s with bus := rest } = s := by rw [show rest = s.bus from hbus.symm]
    rw [hs, List.length_nil, Nat.zero_add]
    rfl
  | cons w ws ih =>
    obtain ⟨hw, hws⟩ := List.forall_mem_cons.1 hws
    have hstep := step_writeEvent s (writeEvents s.cfg ws ++ rest) w.1 w.2 hw.1 hw.2 hbus released idle
    rw [List.length_cons, Nat.add_right_comm, run_succ_of_step _ _ _ hstep,
      ih _ hws (by simp) (by simpa using released) (by simpa using idle)]
    simp only [writeReg_with_bus, writeRegs, List.foldl_cons]

/-! ### Writes to consecutive entries of a register array -/

/-- A vector with its first `n` entries replaced. -/
def overwrite {α : Type} {m : Nat} (v : Vector α m) (f : Nat → α) : Nat → Vector α m
  | 0 => v
  | n + 1 => (overwrite v f n).setIfInBounds n (f n)

theorem overwrite_getD {α : Type} {m : Nat} (v : Vector α m) (f : Nat → α) (n k : Nat) (d : α) :
    (overwrite v f n).getD k d = if k < n ∧ k < m then f k else v.getD k d := by
  induction n with
  | zero => simp [overwrite]
  | succ n ih =>
    rw [overwrite, getD_setIfInBounds, ih]
    by_cases hkn : n = k
    · subst hkn
      by_cases hm : n < m <;> simp [hm]
    · simp [hkn, show k < n + 1 ↔ k < n by omega]

/-- Writes to the first `n` entries of an array. -/
def arrayWrites (r : Nat → Reg) (f : Nat → Word) (n : Nat) : Writes := (List.range n).map fun k => (r k, f k)

theorem writeRegs_arrayWrites_succ (r : Nat → Reg) (f : Nat → Word) (n : Nat) (s : State) :
    writeRegs (arrayWrites r f (n + 1)) s = writeReg (writeRegs (arrayWrites r f n) s) (r n) (f n) := by
  simp [writeRegs, arrayWrites, List.range_succ]

theorem writeRegs_charIn (f : Nat → Word) (n : Nat) (s : State) :
    writeRegs (arrayWrites .charIn f n) s =
      { s with charIn := overwrite s.charIn (fun k => (f k).setWidth 16) n } := by
  induction n with
  | zero => rfl
  | succ n ih => rw [writeRegs_arrayWrites_succ, ih]; rfl

theorem writeRegs_payload (f : Nat → Word) (n : Nat) (s : State) :
    writeRegs (arrayWrites .payload f n) s =
      { s with payload := overwrite s.payload (fun k => f k &&& payloadMask s.cfg k) n } := by
  induction n with
  | zero => rfl
  | succ n ih => rw [writeRegs_arrayWrites_succ, ih]; rfl

/-! ### LOADSTR -/

/-- The writes of LOADSTR (30 R91). -/
def stringWrites (us : List CodeUnit) : Writes :=
  arrayWrites .charIn (fun k => (us.getD k 0).setWidth 32) us.length ++ [(.inLen, BitVec.ofNat 32 us.length)]

theorem loadUnits_eq (c : Config) (k : Nat) (us : List CodeUnit) :
    loadUnits c k us =
      (List.range us.length).map fun j => writeEvent c (.charIn (k + j)) ((us.getD j 0).setWidth 32) := by
  induction us generalizing k with
  | nil => rfl
  | cons u us ih =>
    rw [loadUnits, ih, List.length_cons, List.range_succ_eq_map]
    simp [Nat.add_assoc, Nat.add_comm 1]

theorem expandStmt_loadStr (c : Config) (us : List CodeUnit) :
    expandStmt c (.loadStr us) = writeEvents c (stringWrites us) := by
  simp [expandStmt, loadUnits_eq, writeEvents, stringWrites, arrayWrites]

theorem stringWrites_inRange (us : List CodeUnit) (hlen : us.length ≤ 64) :
    ∀ w ∈ stringWrites us, w.1.InRange ∧ w.1 ≠ .cmd := by
  intro w hw
  simp only [stringWrites, arrayWrites, List.mem_append, List.mem_map, List.mem_range, List.mem_singleton] at hw
  obtain ⟨k, hk, rfl⟩ | rfl := hw
  · exact ⟨show k < 64 by omega, nofun⟩
  · exact ⟨trivial, nofun⟩

theorem writeRegs_stringWrites (us : List CodeUnit) (s : State) :
    writeRegs (stringWrites us) s =
      { s with
        inLen := BitVec.ofNat 16 us.length
        charIn := overwrite s.charIn (fun k => us.getD k 0) us.length } := by
  have hunit : ∀ u : CodeUnit, (u.setWidth 32).setWidth 16 = u := fun u => by
    rw [BitVec.setWidth_setWidth_of_le _ (by decide), BitVec.setWidth_eq]
  have hlen : (BitVec.ofNat 32 us.length).setWidth 16 = BitVec.ofNat 16 us.length :=
    BitVec.setWidth_ofNat_of_le (by decide) _
  calc writeRegs (stringWrites us) s
      = writeReg (writeRegs (arrayWrites .charIn (fun k => (us.getD k 0).setWidth 32) us.length) s) .inLen
          (BitVec.ofNat 32 us.length) := by simp [writeRegs, stringWrites]
    _ = _ := by rw [writeRegs_charIn]; simp only [writeReg, hunit, hlen]

theorem run_loadStr (n : Nat) (s : State) (us : List CodeUnit) (rest : List Event) (hlen : us.length ≤ 64)
    (released : s.inReset = false) (idle : s.status.busy = false)
    (hbus : s.bus = expandStmt s.cfg (.loadStr us) ++ rest) :
    Sys2Proof.core.run (us.length + 1 + n) s =
      Sys2Proof.core.run n
        { s with
          bus := rest
          inLen := BitVec.ofNat 16 us.length
          charIn := overwrite s.charIn (fun k => us.getD k 0) us.length } := by
  have hcount : (stringWrites us).length = us.length + 1 := by simp [stringWrites, arrayWrites]
  rw [expandStmt_loadStr] at hbus
  rw [← hcount, run_writeEvents _ rest n s (stringWrites_inRange us hlen) hbus released idle,
    writeRegs_stringWrites]

/-! ### LOADREC -/

/-- The writes of LOADREC (30 R91). -/
def recordWrites (c : Config) (h : Word) (a : Nat) : Writes :=
  (.hdr, h) :: arrayWrites .payload (fun k => BitVec.ofNat 32 (a >>> (32 * k))) (payloadWordCount c)

theorem expandStmt_loadRec (c : Config) (h : Word) (a : Nat) :
    expandStmt c (.loadRec h a) = writeEvents c (recordWrites c h a) := by
  simp [expandStmt, writeEvents, recordWrites, arrayWrites]

/-- A legal payload fits the sixteen words (00 R8, R9). -/
theorem payloadWordCount_le (c : Config) (hc : Config.legal c = true) : payloadWordCount c ≤ 16 := by
  have := legal_width c hc
  unfold payloadWordCount
  omega

theorem recordWrites_inRange (c : Config) (h : Word) (a : Nat) (hc : Config.legal c = true) :
    ∀ w ∈ recordWrites c h a, w.1.InRange ∧ w.1 ≠ .cmd := by
  intro w hw
  simp only [recordWrites, arrayWrites, List.mem_cons, List.mem_map, List.mem_range] at hw
  obtain rfl | ⟨k, hk, rfl⟩ := hw
  · exact ⟨trivial, nofun⟩
  · exact ⟨show k < 16 from lt_of_lt_of_le hk (payloadWordCount_le c hc), nofun⟩

theorem writeRegs_recordWrites (c : Config) (h : Word) (a : Nat) (s : State) (hc : s.cfg = c) :
    writeRegs (recordWrites c h a) s =
      { s with
        hdr := h.setWidth 12
        payload := overwrite s.payload (fun k => BitVec.ofNat 32 (a >>> (32 * k)) &&& payloadMask c k)
          (payloadWordCount c) } := by
  subst hc
  exact writeRegs_payload _ _ { s with hdr := h.setWidth 12 }

theorem run_loadRec (n : Nat) (s : State) (h : Word) (a : Nat) (rest : List Event)
    (hlegal : Config.legal s.cfg = true) (released : s.inReset = false) (idle : s.status.busy = false)
    (hbus : s.bus = expandStmt s.cfg (.loadRec h a) ++ rest) :
    Sys2Proof.core.run (payloadWordCount s.cfg + 1 + n) s =
      Sys2Proof.core.run n
        { s with
          bus := rest
          hdr := h.setWidth 12
          payload := overwrite s.payload (fun k => BitVec.ofNat 32 (a >>> (32 * k)) &&& payloadMask s.cfg k)
            (payloadWordCount s.cfg) } := by
  have hcount : (recordWrites s.cfg h a).length = payloadWordCount s.cfg + 1 := by simp [recordWrites, arrayWrites]
  rw [expandStmt_loadRec] at hbus
  rw [← hcount, run_writeEvents _ rest n s (recordWrites_inRange s.cfg h a hlegal) hbus released idle,
    writeRegs_recordWrites s.cfg h a { s with bus := rest } rfl]

/-- The words of a number below 2^P have no bits at or above P for the write to drop (10 R33). -/
theorem payloadWord_and_mask (c : Config) (a k : Nat) (ha : a < 2 ^ c.p) (hk : k < 16) :
    BitVec.ofNat 32 (a >>> (32 * k)) &&& payloadMask c k = BitVec.ofNat 32 (a >>> (32 * k)) := by
  have hlt := payloadWords_toNat_lt c.p a k ha hk
  rw [payloadWords_getD a k hk] at hlt
  have hpow : 2 ^ min 32 (c.p - 32 * k) ≤ 2 ^ 32 := Nat.pow_le_pow_right (by decide) (min_le_left _ _)
  have hpos := Nat.two_pow_pos (min 32 (c.p - 32 * k))
  have hmask : (payloadMask c k).toNat = 2 ^ min 32 (c.p - 32 * k) - 1 := by
    rw [payloadMask, BitVec.toNat_ofNat, Nat.mod_eq_of_lt (by omega)]
  apply BitVec.eq_of_toNat_eq
  rw [BitVec.toNat_and, hmask, Nat.and_two_pow_sub_one_eq_mod, Nat.mod_eq_of_lt hlt]

/-- A number stored word by word is the payload integer (42 R181). -/
theorem payloadValue_of_words (s : State) (a : Nat) (ha : a < 2 ^ s.cfg.p)
    (hwords : ∀ k < payloadWordCount s.cfg, s.payload.getD k 0 = BitVec.ofNat 32 (a >>> (32 * k))) :
    payloadValue s = a := by
  apply Nat.eq_of_testBit_eq
  intro j
  rw [payloadValue_testBit]
  by_cases hj : j < s.cfg.p
  · have hword : j / 32 < payloadWordCount s.cfg := by unfold payloadWordCount; omega
    have hmod : j % 32 < 32 := Nat.mod_lt _ (by decide)
    rw [hwords _ hword, BitVec.getLsbD_ofNat, Nat.testBit_shiftRight, Nat.div_add_mod]
    simp [hj, hmod]
  · have hlt : a < 2 ^ j := lt_of_lt_of_le ha (Nat.pow_le_pow_right (by decide) (by omega))
    simp [hj, Nat.testBit_lt_two_pow hlt]

/-- Settles O57: the entries of the array written and the entries past them. -/
theorem loadStatementsPlaceTheirOperands : Obligations.LoadStatementsPlaceTheirOperands := by
  constructor
  · intro s us hlen released idle hbus
    refine ⟨_, run_loadStr 0 s us [] hlen released idle (by rw [hbus, List.append_nil]), rfl, fun k hk => ?_,
      fun k hk => ?_⟩
    · exact (overwrite_getD _ _ _ _ _).trans (if_pos ⟨hk, by omega⟩)
    · exact (overwrite_getD _ _ _ _ _).trans (if_neg (by omega))
  · intro s h a hlegal ha released idle hbus
    have hcount := payloadWordCount_le s.cfg hlegal
    have hword : ∀ k < payloadWordCount s.cfg,
        (overwrite s.payload (fun k => BitVec.ofNat 32 (a >>> (32 * k)) &&& payloadMask s.cfg k)
          (payloadWordCount s.cfg)).getD k 0 = BitVec.ofNat 32 (a >>> (32 * k)) := by
      intro k hk
      have hk16 : k < 16 := by omega
      rw [overwrite_getD, if_pos ⟨hk, hk16⟩, payloadWord_and_mask s.cfg a k ha hk16]
    refine ⟨_, run_loadRec 0 s h a [] hlegal released idle (by rw [hbus, List.append_nil]), rfl,
      payloadValue_of_words _ a ha hword, hword, fun k _ hk => ?_⟩
    exact (overwrite_getD _ _ _ _ _).trans (if_neg (by omega))

end Sys2Proof.Machine
end

section
/-! PROOFS. The alphabets: the classifier's verdict on a code unit, and what the LUT of legal tables answers for a
character of the grid, a character outside it and a spare code (spec 40). -/

namespace Sys2Proof.Machine

/-! ### The punctuation marks -/

theorem indexOf_eq_findIdx? {α : Type} (p : α → Bool) (l : List α) : indexOf p l = l.findIdx? p := by
  induction l with
  | nil => rfl
  | cons x xs ih => simp [indexOf, List.findIdx?_cons, ih]

/-- Where the search ends there is an element of the kind sought. -/
theorem indexOf_beq_some {α : Type} [BEq α] [LawfulBEq α] {x : α} {l : List α} {k : Nat}
    (h : indexOf (· == x) l = some k) : l[k]? = some x := by
  rw [indexOf_eq_findIdx?, List.findIdx?_eq_some_iff_getElem] at h
  obtain ⟨hk, hx, -⟩ := h
  rw [List.getElem?_eq_getElem hk, eq_of_beq hx]

theorem indexOf_beq_none {α : Type} [BEq α] [LawfulBEq α] {x : α} {l : List α} :
    indexOf (· == x) l = none ↔ x ∉ l := by
  rw [indexOf_eq_findIdx?, List.findIdx?_eq_none_iff]
  exact ⟨fun h hx => by simpa using h x hx, fun h y hy => by simpa using ne_of_mem_of_not_mem hy h⟩

theorem marks_nodup : marks.Nodup := by decide

/-- No two marks share an index (00 R16). -/
theorem markIndex_eq_some {u : CodeUnit} {k : Nat} : markIndex u = some k ↔ marks[k]? = some u := by
  refine ⟨indexOf_beq_some, fun hk => ?_⟩
  obtain hnone | ⟨j, hj⟩ := Option.eq_none_or_eq_some (markIndex u)
  · exact absurd (List.mem_of_getElem? hk) (indexOf_beq_none.mp hnone)
  · have hju : marks[j]? = some u := indexOf_beq_some hj
    have hlt : j < marks.length := (List.getElem?_eq_some_iff.mp hju).1
    rw [hj, (List.getElem?_inj hlt marks_nodup).mp (hju.trans hk.symm)]

theorem markIndex_eq_none {u : CodeUnit} : markIndex u = none ↔ u ∉ marks := indexOf_beq_none

theorem mark_index_lt {u : CodeUnit} {k : Nat} (hk : marks[k]? = some u) : k < 10 :=
  (List.getElem?_eq_some_iff.mp hk).1

/-- An index below ten, as the class holds it in eight bits. -/
theorem toNat_mark_index {u : CodeUnit} {k : Nat} (hk : marks[k]? = some u) : (BitVec.ofNat 8 k).toNat = k := by
  have := mark_index_lt hk
  rw [BitVec.toNat_ofNat, Nat.mod_eq_of_lt (by omega)]

/-- The marks lie outside the letters and the digits, and in ASCII (40 R102). -/
theorem mark_outside_letters_and_digits : ∀ u ∈ marks,
    ¬(0x41 ≤ u.toNat ∧ u.toNat ≤ 0x5A) ∧ ¬(0x61 ≤ u.toNat ∧ u.toNat ≤ 0x7A) ∧
      ¬(0x30 ≤ u.toNat ∧ u.toNat ≤ 0x39) ∧ u.toNat < 0x80 := by
  simp [marks]

/-! ### The classifier -/

theorem toNat_low {u : CodeUnit} (h : u.toNat ≤ 0xFF) : (u.setWidth 8).toNat = u.toNat := by
  rw [BitVec.toNat_setWidth, Nat.mod_eq_of_lt (by omega)]

/-- A character of Latin-1 is given by its low byte. -/
theorem setWidth_low {u : CodeUnit} (h : u.toNat ≤ 0xFF) : (u.setWidth 8).setWidth 16 = u := by
  apply BitVec.eq_of_toNat_eq
  rw [BitVec.toNat_setWidth, toNat_low h, Nat.mod_eq_of_lt u.isLt]

/-- The verdicts of the classifier, each with the set of code units it is given on (40 R101). -/
inductive Classified (u : CodeUnit) : CharClass → Prop
  | punct (k : Nat) (hk : marks[k]? = some u) : Classified u { kind := .punct, val := BitVec.ofNat 8 k }
  | upper (h : 0x41 ≤ u.toNat ∧ u.toNat ≤ 0x5A) : Classified u { kind := .upper, val := u.setWidth 8 }
  | lower (h : 0x61 ≤ u.toNat ∧ u.toNat ≤ 0x7A) : Classified u { kind := .lower, val := u.setWidth 8 }
  | digit (h : 0x30 ≤ u.toNat ∧ u.toNat ≤ 0x39) : Classified u { kind := .digit, val := u.setWidth 8 }
  | accent (h : 0xC0 ≤ u.toNat ∧ u.toNat ≤ 0xFF ∧ u.toNat ≠ 0xD7 ∧ u.toNat ≠ 0xF7) :
      Classified u { kind := .accent, val := u.setWidth 8 }
  | other (hmark : u ∉ marks) (hupper : ¬(0x41 ≤ u.toNat ∧ u.toNat ≤ 0x5A))
      (hlower : ¬(0x61 ≤ u.toNat ∧ u.toNat ≤ 0x7A)) (hdigit : ¬(0x30 ≤ u.toNat ∧ u.toNat ≤ 0x39))
      (haccent : ¬(0xC0 ≤ u.toNat ∧ u.toNat ≤ 0xFF ∧ u.toNat ≠ 0xD7 ∧ u.toNat ≠ 0xF7)) :
      Classified u { kind := .other, val := 0 }

theorem classify_of_mark {u : CodeUnit} {k : Nat} (hk : marks[k]? = some u) :
    classify u = { kind := .punct, val := BitVec.ofNat 8 k } := by
  rw [classify, markIndex_eq_some.mpr hk]

theorem classified (u : CodeUnit) : Classified u (classify u) := by
  obtain hnone | ⟨k, hk⟩ := Option.eq_none_or_eq_some (markIndex u)
  · simp only [classify, hnone]
    split
    next hupper => exact .upper hupper
    next hupper =>
    split
    next hlower => exact .lower hlower
    next hlower =>
    split
    next hdigit => exact .digit hdigit
    next hdigit =>
    split
    next haccent => exact .accent haccent
    next haccent => exact .other (markIndex_eq_none.mp hnone) hupper hlower hdigit haccent
  · have hmark := markIndex_eq_some.mp hk
    rw [classify_of_mark hmark]
    exact .punct k hmark

/-- Settles O23: the sets of the verdicts exclude each other, so each verdict is given on the whole of its set. -/
theorem classesAreDisjointSets : Obligations.ClassesAreDisjointSets := by
  intro u
  have hmarks := mark_outside_letters_and_digits u
  have hclassified := classified u
  generalize classify u = cl at hclassified ⊢
  cases hclassified with
  | punct k hk =>
    have hmem := List.mem_of_getElem? hk
    have hout := hmarks hmem
    simp only [reduceCtorEq, hmem, false_iff]
    exact ⟨trivial, by omega, by omega, by omega, by omega, fun _ => by rwa [toNat_mark_index hk], by simp⟩
  | upper h | lower h | digit h | accent h =>
    have hlow := toNat_low (u := u) (by omega)
    have hmem : u ∉ marks := fun hm => by have := hmarks hm; omega
    simp only [reduceCtorEq, hmem, true_iff, false_iff]
    exact ⟨trivial, by omega, by omega, by omega, by omega, by simp, fun _ _ => hlow, by simp⟩
  | other hmark hupper hlower hdigit haccent =>
    simp only [reduceCtorEq, false_iff]
    exact ⟨hmark, hupper, hlower, hdigit, haccent, by simp⟩

/-- A class other than OTHER stands for the code unit it was given, a character of Latin-1 (40 R104). -/
theorem classChar_classify {u : CodeUnit} (h : (classify u).kind ≠ .other) :
    classChar (classify u) = some (u.setWidth 8) ∧ u.toNat ≤ 0xFF := by
  have hclassified := classified u
  generalize classify u = cl at h hclassified ⊢
  cases hclassified with
  | punct k hk =>
    have hout := mark_outside_letters_and_digits u (List.mem_of_getElem? hk)
    exact ⟨by simp only [classChar, toNat_mark_index hk, hk, Option.map_some], by omega⟩
  | upper h | lower h | digit h | accent h => exact ⟨rfl, by omega⟩
  | other => exact absurd rfl h

theorem classChar_other {cl : CharClass} (h : cl.kind = .other) : classChar cl = none := by
  rw [classChar, h]

/-! ### Legal grids -/

section
variable {c : Config} {a : Alphabet} (hproper : gridProper c a = true)
include hproper

/-- A code of the grid fits the alphabet's width (40 R118 (1)). -/
theorem gridProper_code_lt {code : Nat} {x : Option Byte} (h : (gridOf c a)[code]? = some x) :
    code < 2 ^ alphabetStep a := by
  simp only [gridProper, Bool.and_eq_true, beq_iff_eq] at hproper
  obtain ⟨⟨hlength, -⟩, -⟩ := hproper
  exact hlength ▸ (List.getElem?_eq_some_iff.mp h).1

/-- No character has two codes (40 R118 (1)). -/
theorem gridProper_code_unique {i j : Nat} {ch : Byte} (hi : (gridOf c a)[i]? = some (some ch))
    (hj : (gridOf c a)[j]? = some (some ch)) : i = j := by
  simp only [gridProper, Bool.and_eq_true, decide_eq_true_eq] at hproper
  obtain ⟨⟨-, hnodup⟩, -⟩ := hproper
  rw [List.Nodup, List.pairwise_filter, List.pairwise_iff_getElem] at hnodup
  obtain ⟨hi, hich⟩ := List.getElem?_eq_some_iff.mp hi
  obtain ⟨hj, hjch⟩ := List.getElem?_eq_some_iff.mp hj
  obtain hlt | heq | hgt := Nat.lt_trichotomy i j
  · exact absurd (hich.trans hjch.symm) (hnodup i j hi hj hlt (by simp [hich]) (by simp [hjch]))
  · exact heq
  · exact absurd (hjch.trans hich.symm) (hnodup j i hj hi hgt (by simp [hjch]) (by simp [hich]))

/-- A character of the grid is one the encoder can produce (40 R106). -/
theorem gridProper_entry_classified {code : Nat} {u : CodeUnit}
    (h : (gridOf c a)[code]? = some (some (u.setWidth 8))) (hu : u.toNat ≤ 0xFF) :
    (classify u).kind ≠ .other := by
  simp only [gridProper, Bool.and_eq_true, List.all_eq_true] at hproper
  obtain ⟨-, hentries⟩ := hproper
  have hentry := hentries _ (List.mem_of_getElem? h)
  simpa [entryProper, setWidth_low hu] using hentry

/-- The LUT finds the one code of a character. -/
theorem gridProper_indexOf_entry {code : Nat} {ch : Byte} (h : (gridOf c a)[code]? = some (some ch)) :
    indexOf (fun x => x == some ch) (gridOf c a) = some code := by
  obtain hnone | ⟨k, hk⟩ := Option.eq_none_or_eq_some (indexOf (fun x => x == some ch) (gridOf c a))
  · exact absurd (List.mem_of_getElem? h) (indexOf_beq_none.mp hnone)
  · rw [hk, gridProper_code_unique hproper (indexOf_beq_some hk) h]

end

/-! ### The LUT of a character outside the grid and of a spare code -/

/-- What is not in the grid answers MISS (40 R105). -/
theorem lutEnc_miss {c : Config} {a : Alphabet} {u : CodeUnit}
    (h : 0xFF < u.toNat ∨ some (u.setWidth 8) ∉ gridOf c a) : lutEnc c a (classify u) = .miss := by
  by_cases hother : (classify u).kind = .other
  · rw [lutEnc, classChar_other hother]
  · obtain ⟨hchar, hu⟩ := classChar_classify hother
    have hgrid : some (u.setWidth 8) ∉ gridOf c a := h.resolve_left (by omega)
    simp only [lutEnc, hchar, indexOf_beq_none.mpr hgrid]

theorem lutDec_spare {c : Config} {a : Alphabet} {code : Nat} (h : (gridOf c a)[code]? = some none) :
    lutDec c a code = none := by
  rw [lutDec, h]

/-! ### The LUT of a character of the grid -/

/-- A mark of the alphabet's domain that its LUT gives no code (40 R116). -/
def UnresolvedMark (c : Config) (a : Alphabet) (u : CodeUnit) : Prop :=
  ∃ k ∈ unresolved c a, marks[k]? = some u

/-- The code of a character: decoding tests the mark's own index (40 R106). -/
theorem lutDec_entry {c : Config} {a : Alphabet} {code : Nat} {u : CodeUnit}
    (h : (gridOf c a)[code]? = some (some (u.setWidth 8))) (hu : u.toNat ≤ 0xFF) :
    (UnresolvedMark c a u → lutDec c a code = none) ∧ (¬UnresolvedMark c a u → lutDec c a code = some u) := by
  simp only [lutDec, h, setWidth_low hu]
  constructor
  · rintro ⟨k, hk, hmark⟩
    simp only [markIndex_eq_some.mpr hmark, if_pos hk]
  · intro hresolved
    obtain hnone | ⟨k, hk⟩ := Option.eq_none_or_eq_some (markIndex u)
    · simp only [hnone]
    · have hout : k ∉ unresolved c a := fun hmem => hresolved ⟨k, hmem, markIndex_eq_some.mp hk⟩
      simp only [hk, if_neg hout]

/-- A code that decodes is the code of a character of the grid (40 R106). -/
theorem entry_of_lutDec {c : Config} {a : Alphabet} {code : Nat} {u : CodeUnit} (h : lutDec c a code = some u) :
    (gridOf c a)[code]? = some (some (u.setWidth 8)) ∧ u.toNat ≤ 0xFF := by
  match hentry : (gridOf c a)[code]? with
  | none => simp [lutDec, hentry] at h
  | some none => simp [lutDec_spare hentry] at h
  | some (some ch) =>
    have hlow : (ch.setWidth 16).setWidth 8 = ch := by simp
    have hch : (ch.setWidth 16).toNat ≤ 0xFF := by rw [BitVec.toNat_setWidth]; omega
    obtain ⟨hnone, hsome⟩ := lutDec_entry (hlow.symm ▸ hentry) hch
    have hresolved : ¬UnresolvedMark c a (ch.setWidth 16) := fun hmark => by simp [hnone hmark] at h
    have hu : ch.setWidth 16 = u := by simpa [hsome hresolved] using h
    exact hu ▸ ⟨by rw [hlow], hch⟩

/-- A class is punctuation at an unresolved index exactly when its code unit is an unresolved mark. -/
theorem classify_unresolved_iff {c : Config} {a : Alphabet} {u : CodeUnit} :
    ((classify u).kind = .punct ∧ (classify u).val.toNat ∈ unresolved c a) ↔ UnresolvedMark c a u := by
  obtain ⟨-, -, -, -, -, hmark, -, -⟩ := classesAreDisjointSets u
  constructor
  · rintro ⟨hpunct, hmem⟩
    exact ⟨_, hmem, hmark hpunct⟩
  · rintro ⟨k, hmem, hk⟩
    rw [classify_of_mark hk]
    exact ⟨rfl, by rwa [toNat_mark_index hk]⟩

/-- The class of a character: its one code, unless the mark is unresolved (40 R105). -/
theorem gridProper_lutEnc_entry {c : Config} {a : Alphabet} {code : Nat} {u : CodeUnit}
    (hproper : gridProper c a = true) (h : (gridOf c a)[code]? = some (some (u.setWidth 8))) (hu : u.toNat ≤ 0xFF) :
    (UnresolvedMark c a u → lutEnc c a (classify u) = .unres) ∧
      (¬UnresolvedMark c a u → lutEnc c a (classify u) = .ok code) := by
  obtain ⟨hchar, -⟩ := classChar_classify (gridProper_entry_classified hproper h hu)
  simp only [lutEnc, hchar, gridProper_indexOf_entry hproper h]
  exact ⟨fun hmark => if_pos (classify_unresolved_iff.mpr hmark),
    fun hmark => if_neg fun hclass => hmark (classify_unresolved_iff.mp hclass)⟩

/-- A code unit is a character of the grid, with a code, or it answers MISS. -/
theorem entry_or_miss (c : Config) (a : Alphabet) (u : CodeUnit) :
    (∃ code : Nat, (gridOf c a)[code]? = some (some (u.setWidth 8)) ∧ u.toNat ≤ 0xFF) ∨
      lutEnc c a (classify u) = .miss := by
  by_cases hmiss : 0xFF < u.toNat ∨ some (u.setWidth 8) ∉ gridOf c a
  · exact .inr (lutEnc_miss hmiss)
  · obtain ⟨hu, hmem⟩ := not_or.mp hmiss
    obtain ⟨code, hcode⟩ := List.mem_iff_getElem?.mp (not_not.mp hmem)
    exact .inl ⟨code, hcode, by omega⟩

/-- The two directions of the round-trip law read the same entry of the grid (40 R120). -/
theorem gridProper_lutEnc_ok_iff {c : Config} {a : Alphabet} (hproper : gridProper c a = true) (u : CodeUnit)
    (code : Nat) : lutEnc c a (classify u) = .ok code ↔ lutDec c a code = some u := by
  constructor
  · intro henc
    obtain ⟨k, hk, hu⟩ | hmiss := entry_or_miss c a u
    · obtain ⟨hunres, hok⟩ := gridProper_lutEnc_entry hproper hk hu
      have hresolved : ¬UnresolvedMark c a u := fun hmark => by simp [hunres hmark] at henc
      have hcode : k = code := by simpa [hok hresolved] using henc
      exact hcode ▸ (lutDec_entry hk hu).2 hresolved
    · simp [hmiss] at henc
  · intro hdec
    obtain ⟨hcode, hu⟩ := entry_of_lutDec hdec
    have hresolved : ¬UnresolvedMark c a u := fun hmark => by simp [(lutDec_entry hcode hu).1 hmark] at hdec
    exact (gridProper_lutEnc_entry hproper hcode hu).2 hresolved

/-! ### Unresolved slots -/

/-- Narrowing keeps the mark of index `k` for the alphabet (41 R145). -/
def KeepsMark (a : Alphabet) (k : Nat) : Prop :=
  k < 10 ∧ candHas (keepMask { kind := .punct, val := BitVec.ofNat 8 k }) a = true

/-- The slots that 40 R118 lets be unresolved are marks that narrowing keeps for their alphabet. -/
theorem keepsMark_of_allowed :
    (∀ k ∈ [0, 2, 3, 4, 6, 7], KeepsMark .date k) ∧ (∀ k ∈ [0, 1, 2, 3], KeepsMark .european k) ∧
      (∀ k ≤ 9, KeepsMark .alphasym k) := by
  unfold KeepsMark
  decide

theorem keepsMark_of_unresolved {c : Config} (h : Config.legal c = true) {a : Alphabet} {k : Nat}
    (hk : k ∈ unresolved c a) : KeepsMark a k := by
  simp only [Config.legal, Bool.and_eq_true, List.all_eq_true, decide_eq_true_eq] at h
  obtain ⟨⟨⟨⟨-, hdate⟩, heuropean⟩, halphasym⟩, -⟩ := h
  obtain ⟨date, european, alphasym⟩ := keepsMark_of_allowed
  cases a with
  | date => exact date k (hdate k hk)
  | european => exact european k (heuropean k hk)
  | alphasym => exact alphasym k (halphasym k hk)
  | _ => cases hk

theorem mark_class_mem_properClasses : ∀ k < 10, { kind := .punct, val := BitVec.ofNat 8 k } ∈ properClasses := by
  decide

/-- The mark of an unresolved slot stands in the grid: narrowing keeps it, so it does not answer MISS (40 R118 (3)). -/
theorem unresolved_slot_in_grid {c : Config} (hlegal : Config.legal c = true) {a : Alphabet}
    (ha : a ∈ restrictedAlphabets) {k : Nat} (hk : k ∈ unresolved c a) :
    ∃ (u : CodeUnit) (code : Nat), marks[k]? = some u ∧ u.toNat ≤ 0xFF ∧
      (gridOf c a)[code]? = some (some (u.setWidth 8)) := by
  obtain ⟨hlt, hkept⟩ := keepsMark_of_unresolved hlegal hk
  have hmark : marks[k]? = some marks[k] := List.getElem?_eq_getElem hlt
  have hmatch := (legal_grid c hlegal a ha).2
  rw [gridMatchesKeep, List.all_eq_true] at hmatch
  have hfound : lutEnc c a (classify marks[k]) ≠ .miss := by
    simpa [hkept, classify_of_mark hmark] using hmatch _ (mark_class_mem_properClasses k hlt)
  obtain ⟨code, hcode, hu⟩ := (entry_or_miss c a marks[k]).resolve_right hfound
  exact ⟨_, code, hmark, hu, hcode⟩

/-- Settles O24, by the entry of the grid that a character or a code has. -/
theorem lutRoundTrip : Obligations.LutRoundTrip := by
  intro c a hlegal ha
  have hproper := (legal_grid c hlegal a ha).1
  refine ⟨fun u code henc => ?_, fun code u hdec => (gridProper_lutEnc_ok_iff hproper u code).mpr hdec,
    fun code u hcode hu => ?_, fun k hk => ?_, fun u => lutEnc_miss, fun code => lutDec_spare⟩
  · have hdec := (gridProper_lutEnc_ok_iff hproper u code).mp henc
    exact ⟨hdec, gridProper_code_lt hproper (entry_of_lutDec hdec).1⟩
  · obtain ⟨hencUnres, hencOk⟩ := gridProper_lutEnc_entry hproper hcode hu
    obtain ⟨hdecNone, hdecSome⟩ := lutDec_entry hcode hu
    exact ⟨fun hmark => ⟨hencUnres hmark, hdecNone hmark⟩, fun hmark => ⟨hencOk hmark, hdecSome hmark⟩⟩
  · obtain ⟨u, code, hmark, hu, hcode⟩ := unresolved_slot_in_grid hlegal ha hk
    have hunres := (gridProper_lutEnc_entry hproper hcode hu).1 ⟨k, hk, hmark⟩
    exact ⟨u, code, hmark, hu, hcode, hunres, classify_of_mark hmark ▸ hunres,
      (lutDec_entry hcode hu).1 ⟨k, hk, hmark⟩⟩

/-- Settles O22: the check of the constraints runs on the reference values. -/
theorem referenceParametersAreLegal : Obligations.ReferenceParametersAreLegal := referenceConfig_legal

end Sys2Proof.Machine
end

section
/-! PROOFS. The packer in closed form (42 R177, R178), the string of ENCODE as a list (30 R87), and the header that
ENCODE commits, as numbers (30 R83). -/

namespace Sys2Proof.Machine

/-! ### The number that a list of codes stands for (30 R86, 42 R178) -/

/-- The sum of the codes, each `w` bits above the next one, the first most significant (42 R178). -/
def codeSum (w : Nat) (cs : List Nat) : Nat :=
  ∑ j ∈ Finset.range cs.length, cs.getD j 0 * 2 ^ ((cs.length - 1 - j) * w)

theorem codeSum_nil (w : Nat) : codeSum w [] = 0 := rfl

theorem codeSum_cons (w c : Nat) (cs : List Nat) :
    codeSum w (c :: cs) = c * 2 ^ (cs.length * w) + codeSum w cs := by
  rw [codeSum, List.length_cons, Finset.sum_range_succ', Nat.add_comm]
  congr 1
  refine Finset.sum_congr rfl fun j _ => ?_
  rw [show cs.length + 1 - 1 - (j + 1) = cs.length - 1 - j by omega]
  rfl

theorem codeSum_lt {w : Nat} {cs : List Nat} (hcs : ∀ c ∈ cs, c < 2 ^ w) : codeSum w cs < 2 ^ (cs.length * w) := by
  induction cs with
  | nil => simp [codeSum_nil]
  | cons c cs ih =>
    rw [List.forall_mem_cons] at hcs
    obtain ⟨hc, hcs⟩ := hcs
    have hsum := ih hcs
    have hmul : (c + 1) * 2 ^ (cs.length * w) ≤ 2 ^ w * 2 ^ (cs.length * w) := Nat.mul_le_mul_right _ hc
    rw [Nat.succ_mul] at hmul
    rw [codeSum_cons, List.length_cons, Nat.succ_mul, Nat.add_comm _ w, pow_add]
    omega

/-! ### The packer (42 R177) -/

/-- Shift, then OR: the low `w` bits are free for the next code (42 R172, R174). -/
theorem brOrLow_brShiftLeft {p w : Nat} (hw : w ≤ p) (acc c : Nat) :
    brOrLow (brShiftLeft p acc w) c (2 ^ w - 1) = (acc * 2 ^ w + c % 2 ^ w) % 2 ^ p := by
  have hpow : 2 ^ p = 2 ^ w * 2 ^ (p - w) := by rw [← pow_add, Nat.add_sub_cancel' hw]
  have hc : c % 2 ^ w < 2 ^ w := Nat.mod_lt _ (Nat.two_pow_pos w)
  rw [brOrLow, brShiftLeft, Nat.shiftLeft_eq, Nat.and_two_pow_sub_one_eq_mod, hpow, Nat.mul_comm acc,
    Nat.mul_mod_mul_left, ← Nat.two_pow_add_eq_or_of_lt hc, Nat.mod_mul, Nat.mul_add_mod, Nat.mod_mod,
    Nat.mul_add_div (Nat.two_pow_pos w), Nat.div_eq_of_lt hc, Nat.add_zero, Nat.add_comm]

theorem brShiftLeft_zero (p w : Nat) : brShiftLeft p brZero w = brZero := by simp [brShiftLeft, brZero]

/-- Shifting the zero register changes nothing, so the first character is packed as the others are. -/
theorem pack_eq_packRest (p w : Nat) (cs : List Nat) : pack p w cs = packRest p w brZero cs := by
  cases cs with
  | nil => rfl
  | cons c cs => rw [pack, packRest, brShiftLeft_zero]

theorem packRest_eq_codeSum_mod {p w : Nat} (hw : w ≤ p) (acc : Nat) (hacc : acc < 2 ^ p) (cs : List Nat) :
    packRest p w acc cs = (acc * 2 ^ (cs.length * w) + codeSum w (cs.map (· % 2 ^ w))) % 2 ^ p := by
  induction cs generalizing acc with
  | nil => simp [packRest, codeSum_nil, Nat.mod_eq_of_lt hacc]
  | cons c cs ih =>
    rw [packRest, brOrLow_brShiftLeft hw, ih _ (Nat.mod_lt _ (Nat.two_pow_pos p)), List.map_cons, codeSum_cons,
      List.length_map, List.length_cons, Nat.add_mod, Nat.mod_mul_mod, ← Nat.add_mod]
    congr 1
    ring

/-- The packer modulo 2^P, whatever the codes (42 R178). -/
theorem pack_eq_codeSum_mod {p w : Nat} (hw : w ≤ p) (cs : List Nat) :
    pack p w cs = codeSum w (cs.map (· % 2 ^ w)) % 2 ^ p := by
  rw [pack_eq_packRest, packRest_eq_codeSum_mod hw brZero (Nat.two_pow_pos p), brZero, Nat.zero_mul, Nat.zero_add]

/-- Codes that fit are packed exactly (42 R178). -/
theorem pack_eq_codeSum {p w : Nat} (cs : List Nat) (hfit : cs.length * w ≤ p) (hcs : ∀ c ∈ cs, c < 2 ^ w) :
    pack p w cs = codeSum w cs := by
  cases cs with
  | nil => rfl
  | cons c cs =>
    have hw : w ≤ p := by rw [List.length_cons, Nat.succ_mul] at hfit; omega
    have hmap : (c :: cs).map (· % 2 ^ w) = c :: cs :=
      (List.map_congr_left fun d hd => Nat.mod_eq_of_lt (hcs d hd)).trans (List.map_id _)
    rw [pack_eq_codeSum_mod hw, hmap, Nat.mod_eq_of_lt]
    exact lt_of_lt_of_le (codeSum_lt hcs) (Nat.pow_le_pow_right (by decide) hfit)

/-! ### The string and the header -/

/-- The string of ENCODE, character by character; CHAR_IN holds 64 of them (30 R87). -/
theorem stringUnits_eq_map_charAt (s : State) (hL : s.inLen.toNat ≤ 64) :
    stringUnits s = (List.range s.inLen.toNat).map (charAt s) := by
  refine List.ext_getElem (by simp [stringUnits, stringLength, hL]) fun k hk _ => ?_
  have hk64 : k < 64 := by simp [stringUnits] at hk; omega
  simp [stringUnits, charAt, Vector.getD, hk64]

theorem stringUnits_length (s : State) (hL : s.inLen.toNat ≤ 64) : (stringUnits s).length = s.inLen.toNat := by
  rw [stringUnits_eq_map_charAt s hL, List.length_map, List.length_range]

/-- The number that the codes of the string stand for. -/
theorem codeSum_stringUnits (s : State) (hL : s.inLen.toNat ≤ 64) (w : Nat) (f : CodeUnit → Nat) :
    codeSum w ((stringUnits s).map f) =
      ∑ k ∈ Finset.range s.inLen.toNat, f (charAt s k) * 2 ^ ((s.inLen.toNat - 1 - k) * w) := by
  rw [stringUnits_eq_map_charAt s hL, List.map_map, codeSum, List.length_map, List.length_range]
  refine Finset.sum_congr rfl fun k hk => ?_
  have hk' : k < s.inLen.toNat := Finset.mem_range.1 hk
  simp [List.getD, hk']

/-- The header as a number: TAG 0b10, then ID, then LEN (30 R83). -/
theorem headerOf_eq (a : Alphabet) (len : Nat) (hlen : len ≤ 63) :
    headerOf a len = BitVec.ofNat 12 (0x800 + 64 * alphabetId a + len) := by
  have hid := alphabetId_le a
  apply BitVec.eq_of_toNat_eq
  rw [headerOf, headerWord, BitVec.toNat_append, BitVec.toNat_append, ← Nat.shiftLeft_add_eq_or_of_lt (BitVec.isLt _),
    ← Nat.shiftLeft_add_eq_or_of_lt (BitVec.isLt _)]
  simp only [BitVec.toNat_ofNat, Nat.shiftLeft_eq]
  omega

end Sys2Proof.Machine
end

section
/-! PROOFS. The candidate selector: the candidate masks and their narrowing, one try, the ordered tries, and the alphabet
that legal tables let ENCODE pick (41 R144 to R159). -/

namespace Sys2Proof.Machine

/-! ### Candidate masks (10 R39) -/

theorem candHas_zero (a : Alphabet) : candHas 0 a = false := BitVec.getLsbD_zero

theorem candHas_and (m n : BitVec 9) (a : Alphabet) : candHas (m &&& n) a = (candHas m a && candHas n a) :=
  BitVec.getLsbD_and

theorem candHas_or (m n : BitVec 9) (a : Alphabet) : candHas (m ||| n) a = (candHas m a || candHas n a) :=
  BitVec.getLsbD_or

/-- Each restricted alphabet has a bit of its own. -/
theorem candHas_bit : ∀ a ∈ restrictedAlphabets, ∀ b ∈ restrictedAlphabets,
    candHas (1#9 <<< (alphabetId b - 1)) a = decide (a = b) := by decide

/-- A mask is given by the restricted alphabets it holds. -/
theorem mask_ext {m n : BitVec 9} (h : ∀ a ∈ restrictedAlphabets, candHas m a = candHas n a) : m = n := by
  refine BitVec.eq_of_getLsbD_eq fun k hk => ?_
  have hbits : ∀ k < 9, ∃ a ∈ restrictedAlphabets, alphabetId a - 1 = k := by decide
  obtain ⟨a, ha, rfl⟩ := hbits k hk
  exact h a ha

/-! ### The initial candidate set (41 R144) -/

theorem candHas_foldl_bits (c : Config) (L : Nat) (m : BitVec 9) {a : Alphabet} (ha : a ∈ restrictedAlphabets)
    {as : List Alphabet} (has : as ⊆ restrictedAlphabets) :
    candHas (as.foldl (fun m b => if L ≤ maxLength c b then m ||| (1#9 <<< (alphabetId b - 1)) else m) m) a =
      (candHas m a || decide (a ∈ as ∧ L ≤ maxLength c a)) := by
  induction as generalizing m with
  | nil => simp
  | cons b as ih =>
    obtain ⟨hb, has⟩ := List.cons_subset.1 has
    rw [List.foldl_cons, ih _ has]
    split
    next hfit =>
      rw [candHas_or, candHas_bit a ha b hb, Bool.or_assoc]
      by_cases hab : a = b <;> simp [hab, hfit]
    next hfit => by_cases hab : a = b <;> simp [hab, hfit]

theorem candHas_initCand (c : Config) (L : Nat) {a : Alphabet} (ha : a ∈ restrictedAlphabets) :
    candHas (initCand c L) a = decide (L ≤ maxLength c a) := by
  rw [initCand, candHas_foldl_bits c L 0 ha (List.Subset.refl _), candHas_zero]
  simp [ha]

/-- The mask that holds exactly the alphabets with capacity is the initial one. -/
theorem initCand_eq {c : Config} {L : Nat} {m : BitVec 9}
    (h : ∀ a ∈ restrictedAlphabets, decide (L ≤ c.p / alphabetStep a) = candHas m a) : initCand c L = m :=
  mask_ext fun a ha => (candHas_initCand c L ha).trans (h a ha)

/-- Settles O33: each alphabet sets its own bit, and at P = 112 the capacities are 28, 22, 18 and 16 characters. -/
theorem initialCandidates : Obligations.InitialCandidates := by
  refine ⟨fun c L a ha => candHas_initCand c L ha, fun c L hp => ?_⟩
  have htable : ∀ L ≤ 28, ∀ a ∈ restrictedAlphabets,
      (15 ≤ L ∧ L ≤ 16 → decide (L ≤ 112 / alphabetStep a) = candHas 0x1FF a) ∧
      (17 ≤ L ∧ L ≤ 18 → decide (L ≤ 112 / alphabetStep a) = candHas 0x0FF a) ∧
      (19 ≤ L ∧ L ≤ 22 → decide (L ≤ 112 / alphabetStep a) = candHas 0x01F a) ∧
      (23 ≤ L ∧ L ≤ 28 → decide (L ≤ 112 / alphabetStep a) = candHas 0x003 a) := by decide
  rw [← hp] at htable
  exact ⟨fun hlo hhi => initCand_eq fun a ha => (htable L (by omega) a ha).1 ⟨hlo, hhi⟩,
    fun hlo hhi => initCand_eq fun a ha => (htable L (by omega) a ha).2.1 ⟨hlo, hhi⟩,
    fun hlo hhi => initCand_eq fun a ha => (htable L (by omega) a ha).2.2.1 ⟨hlo, hhi⟩,
    fun hlo hhi => initCand_eq fun a ha => (htable L (by omega) a ha).2.2.2 ⟨hlo, hhi⟩⟩

/-! ### Narrowing (41 R146, R148) -/

theorem narrow_zero (us : List CodeUnit) : narrow 0 us = (0, []) := by cases us <;> rfl

theorem narrow_cons {cand : BitVec 9} (hcand : cand ≠ 0) (u : CodeUnit) (us : List CodeUnit) :
    narrow cand (u :: us) =
      ((narrow (cand &&& keepMask (classify u)) us).1,
        classify u :: (narrow (cand &&& keepMask (classify u)) us).2) := by
  rw [narrow, if_neg hcand]

/-- The empty mask stays empty. -/
theorem foldl_keepMask_zero (us : List CodeUnit) : us.foldl (fun m u => m &&& keepMask (classify u)) 0 = 0 := by
  induction us with
  | nil => rfl
  | cons u us ih => rw [List.foldl_cons, show 0 &&& keepMask (classify u) = 0 from BitVec.zero_and, ih]

/-- Stopping early leaves the mask that classifying every character leaves. -/
theorem narrow_mask (cand : BitVec 9) (us : List CodeUnit) :
    (narrow cand us).1 = us.foldl (fun m u => m &&& keepMask (classify u)) cand := by
  induction us generalizing cand with
  | nil => rfl
  | cons u us ih =>
    by_cases hcand : cand = 0
    · rw [hcand, narrow_zero, foldl_keepMask_zero]
    · rw [narrow_cons hcand, List.foldl_cons, ih]

/-- A mask that is not empty at the end was never empty, so every character was classified. -/
theorem narrow_classes {cand : BitVec 9} {us : List CodeUnit} (h : (narrow cand us).1 ≠ 0) :
    (narrow cand us).2 = us.map classify := by
  induction us generalizing cand with
  | nil => rfl
  | cons u us ih =>
    by_cases hcand : cand = 0
    · rw [hcand, narrow_zero] at h
      exact absurd rfl h
    · rw [narrow_cons hcand] at h ⊢
      rw [List.map_cons, ih h]

/-- An alphabet is left when it was there and each character keeps it (41 R147). -/
theorem candHas_narrow (cand : BitVec 9) (us : List CodeUnit) (a : Alphabet) :
    candHas (narrow cand us).1 a = (candHas cand a && us.all fun u => candHas (keepMask (classify u)) a) := by
  rw [narrow_mask]
  induction us generalizing cand with
  | nil => simp
  | cons u us ih => rw [List.foldl_cons, ih, candHas_and, List.all_cons, Bool.and_assoc]

theorem ne_zero_of_candHas {m : BitVec 9} {a : Alphabet} (h : candHas m a = true) : m ≠ 0 := by
  rintro rfl
  rw [candHas_zero] at h
  cases h

/-! ### One try (41 R150) -/

/-- The code of a class under an alphabet, 0 where it has none; of a character's class, the character's code. -/
def classCode (c : Config) (a : Alphabet) (cl : CharClass) : Nat :=
  match lutEnc c a cl with
  | .ok code => code
  | .unres | .miss => 0

theorem classCode_of_ok {c : Config} {a : Alphabet} {cl : CharClass} {code : Nat} (h : lutEnc c a cl = .ok code) :
    classCode c a cl = code := by rw [classCode, h]

theorem classCode_classify (c : Config) (a : Alphabet) (u : CodeUnit) :
    classCode c a (classify u) = codeOf c a u := by
  unfold classCode codeOf
  cases lutEnc c a (classify u) <;> rfl

/-- The first character needs no case of its own: shifting the zero register changes nothing. -/
theorem tryAlphabet_eq_tryRest (c : Config) (a : Alphabet) (cls : List CharClass) :
    tryAlphabet c a cls = tryRest c a brZero cls := by
  cases cls with
  | nil => rfl
  | cons cl cls =>
    rw [tryAlphabet, tryRest]
    cases lutEnc c a cl with
    | ok code => simp only [brShiftLeft_zero]
    | unres | miss => rfl

theorem tryRest_ok {c : Config} {a : Alphabet} {cl : CharClass} {code : Nat} (h : lutEnc c a cl = .ok code)
    (acc : Nat) (cls : List CharClass) :
    tryRest c a acc (cl :: cls) =
      tryRest c a (brOrLow (brShiftLeft c.p acc (alphabetStep a)) code (alphabetMask a)) cls := by
  rw [tryRest, h]

theorem tryRest_unres {c : Config} {a : Alphabet} {cl : CharClass} (h : lutEnc c a cl = .unres) (acc : Nat)
    (cls : List CharClass) : tryRest c a acc (cl :: cls) = .fail := by
  rw [tryRest, h]

theorem tryRest_miss {c : Config} {a : Alphabet} {cl : CharClass} (h : lutEnc c a cl = .miss) (acc : Nat)
    (cls : List CharClass) : tryRest c a acc (cl :: cls) = .contract := by
  rw [tryRest, h]

/-- The three results of a try, each with what it tells of the classes. -/
inductive Tried (c : Config) (a : Alphabet) (acc : Nat) (cls : List CharClass) : TryResult → Prop
  | pass (h : ∀ cl ∈ cls, lutEnc c a cl = .ok (classCode c a cl)) :
      Tried c a acc cls (.pass (packRest c.p (alphabetStep a) acc (cls.map (classCode c a))))
  | fail (h : ∃ cl ∈ cls, lutEnc c a cl = .unres) : Tried c a acc cls .fail
  | contract (h : ∃ cl ∈ cls, lutEnc c a cl = .miss) : Tried c a acc cls .contract

theorem tryRest_tried (c : Config) (a : Alphabet) (acc : Nat) (cls : List CharClass) :
    Tried c a acc cls (tryRest c a acc cls) := by
  induction cls generalizing acc with
  | nil => exact .pass fun _ h => absurd h List.not_mem_nil
  | cons cl cls ih =>
    cases hlut : lutEnc c a cl with
    | unres => rw [tryRest_unres hlut]; exact .fail ⟨cl, List.mem_cons_self, hlut⟩
    | miss => rw [tryRest_miss hlut]; exact .contract ⟨cl, List.mem_cons_self, hlut⟩
    | ok code =>
      have hcode := classCode_of_ok hlut
      rw [tryRest_ok hlut]
      have htried := ih (brOrLow (brShiftLeft c.p acc (alphabetStep a)) code (alphabetMask a))
      generalize tryRest c a _ cls = r at htried ⊢
      cases htried with
      | pass h =>
        rw [← hcode] at hlut ⊢
        exact .pass (List.forall_mem_cons.2 ⟨hlut, h⟩)
      | fail h =>
        obtain ⟨d, hd, hunres⟩ := h
        exact .fail ⟨d, List.mem_cons_of_mem _ hd, hunres⟩
      | contract h =>
        obtain ⟨d, hd, hmiss⟩ := h
        exact .contract ⟨d, List.mem_cons_of_mem _ hd, hmiss⟩

/-! ### The ordered tries (41 R149) -/

/-- What a try makes of the selection: it ends it, or leaves it to the alphabets after it (41 R150). -/
def afterTry (a : Alphabet) (L : Nat) (next : Selection) : TryResult → Selection
  | .pass acc => .success a L acc
  | .fail => next
  | .contract => .fatal .errContract

/-- Whether an alphabet gets its turn: it is a candidate and has capacity. -/
def Eligible (c : Config) (L : Nat) (cand : BitVec 9) (a : Alphabet) : Prop :=
  candHas cand a = true ∧ L ≤ maxLength c a

section Tries

variable {c : Config} {L : Nat} {cand : BitVec 9} {cls : List CharClass} {a : Alphabet}

theorem tryAll_eligible (h : Eligible c L cand a) (as : List Alphabet) :
    tryAll c L cand cls (a :: as) = afterTry a L (tryAll c L cand cls as) (tryAlphabet c a cls) := by
  rw [tryAll, if_pos (show candHas cand a = true ∧ L ≤ maxLength c a from h)]
  cases tryAlphabet c a cls <;> rfl

theorem tryAll_ineligible (h : ¬Eligible c L cand a) (as : List Alphabet) :
    tryAll c L cand cls (a :: as) = tryAll c L cand cls as := by
  rw [tryAll, if_neg (show ¬(candHas cand a = true ∧ L ≤ maxLength c a) from h)]

end Tries

/-- With no candidate left no alphabet gets its turn (41 R148). -/
theorem tryAll_zero (c : Config) (L : Nat) (cls : List CharClass) (as : List Alphabet) :
    tryAll c L 0 cls as = .nofit := by
  induction as with
  | nil => rfl
  | cons a as ih => exact (tryAll_ineligible (fun h => ne_zero_of_candHas h.1 rfl) as).trans ih

/-- Settles O34: either the mask is empty at the end, and nothing is tried, or the narrowing never stopped early. -/
theorem earlyStopChangesNoSelection : Obligations.EarlyStopChangesNoSelection := by
  intro c L cand us
  rw [← narrow_mask]
  by_cases hmask : (narrow cand us).1 = 0
  · rw [hmask, tryAll_zero, tryAll_zero]
  · rw [narrow_classes hmask]

/-- The tries end in ERR_CONTRACT only where an alphabet that had its turn met MISS. -/
theorem contract_of_tryAll {c : Config} {L : Nat} {cand : BitVec 9} {cls : List CharClass} {as : List Alphabet}
    {r : ResultCode} (h : tryAll c L cand cls as = .fatal r) :
    ∃ a ∈ as, candHas cand a = true ∧ ∃ cl ∈ cls, lutEnc c a cl = .miss := by
  induction as with
  | nil => cases h
  | cons a as ih =>
    have later (h : tryAll c L cand cls as = .fatal r) :
        ∃ b ∈ a :: as, candHas cand b = true ∧ ∃ cl ∈ cls, lutEnc c b cl = .miss := by
      obtain ⟨b, hb, hmiss⟩ := ih h
      exact ⟨b, List.mem_cons_of_mem _ hb, hmiss⟩
    by_cases helig : Eligible c L cand a
    · rw [tryAll_eligible helig, tryAlphabet_eq_tryRest] at h
      have htried := tryRest_tried c a brZero cls
      generalize tryRest c a brZero cls = t at h htried
      cases htried with
      | pass => cases h
      | fail => exact later h
      | contract hmiss => exact ⟨a, List.mem_cons_self, helig.1, hmiss⟩
    · exact later (tryAll_ineligible helig as ▸ h)

/-! ### Classes of the classifier and the keep masks (40 R118, 41 R145) -/

theorem mem_classRun {k : Kind} {lo n : Nat} {u : CodeUnit} (hlo : lo ≤ u.toNat) (hhi : u.toNat < lo + n) :
    { kind := k, val := u.setWidth 8 } ∈ classRun k lo n := by
  refine List.mem_map.2 ⟨u.toNat - lo, List.mem_range.2 (by omega), ?_⟩
  rw [Nat.add_sub_cancel' hlo, BitVec.ofNat_toNat]

/-- Every class but OTHER that the classifier yields is listed (40 R101, R103). -/
theorem classify_mem_properClasses {u : CodeUnit} (h : (classify u).kind ≠ .other) : classify u ∈ properClasses := by
  have hclassified := classified u
  generalize classify u = cl at h hclassified
  simp only [properClasses, List.mem_append]
  cases hclassified with
  | punct k hk =>
    have hmem := mark_class_mem_properClasses k (mark_index_lt hk)
    simpa only [properClasses, List.mem_append] using hmem
  | upper hu =>
    have hmem := mem_classRun (k := .upper) (lo := 0x41) (n := 26) hu.1 (by omega)
    simp only [hmem, true_or, or_true]
  | lower hu =>
    have hmem := mem_classRun (k := .lower) (lo := 0x61) (n := 26) hu.1 (by omega)
    simp only [hmem, true_or, or_true]
  | digit hu =>
    have hmem := mem_classRun (k := .digit) (lo := 0x30) (n := 10) hu.1 (by omega)
    simp only [hmem, true_or, or_true]
  | accent hu =>
    obtain hlow | hmid | hhigh : u.toNat ≤ 0xD6 ∨ 0xD8 ≤ u.toNat ∧ u.toNat ≤ 0xF6 ∨ 0xF8 ≤ u.toNat := by omega
    · have hmem := mem_classRun (k := .accent) (lo := 0xC0) (n := 23) hu.1 (by omega)
      simp only [hmem, true_or, or_true]
    · have hmem := mem_classRun (k := .accent) (lo := 0xD8) (n := 31) hmid.1 (by omega)
      simp only [hmem, true_or, or_true]
    · have hmem := mem_classRun (k := .accent) (lo := 0xF8) (n := 8) hhigh (by omega)
      simp only [hmem, or_true]
  | other => exact absurd rfl h

/-- No alphabet keeps a character of class OTHER (41 R145). -/
theorem keepMask_other {cl : CharClass} (h : cl.kind = .other) : keepMask cl = 0 := by rw [keepMask, h]

/-- A character that keeps an alphabet is of a listed class. -/
theorem properClass_of_kept {u : CodeUnit} {a : Alphabet} (h : candHas (keepMask (classify u)) a = true) :
    classify u ∈ properClasses :=
  classify_mem_properClasses fun hother => ne_zero_of_candHas h (keepMask_other hother)

/-- With legal tables an alphabet that a character keeps does not answer MISS for it (40 R118 (3)). -/
theorem lutEnc_ne_miss_of_kept {c : Config} (hlegal : Config.legal c = true) {a : Alphabet}
    (ha : a ∈ restrictedAlphabets) {u : CodeUnit} (hkept : candHas (keepMask (classify u)) a = true) :
    lutEnc c a (classify u) ≠ .miss := by
  have hmatch := (legal_grid c hlegal a ha).2
  rw [gridMatchesKeep, List.all_eq_true] at hmatch
  simpa [hkept] using hmatch _ (properClass_of_kept hkept)

/-- A code is below the alphabet's size (40 R118 (1)). -/
theorem codeOf_lt {c : Config} (hlegal : Config.legal c = true) {a : Alphabet} (ha : a ∈ restrictedAlphabets)
    (u : CodeUnit) : codeOf c a u < 2 ^ alphabetStep a := by
  rw [← classCode_classify]
  cases hlut : lutEnc c a (classify u) with
  | ok code =>
    rw [classCode_of_ok hlut]
    exact ((lutRoundTrip c a hlegal ha).1 u code hlut).2
  | unres | miss => rw [classCode, hlut]; exact Nat.two_pow_pos _

/-! ### The alphabet selected (41 R157) -/

section Selected

variable {c : Config} {us : List CodeUnit}

/-- Whether an alphabet can take the string: it has capacity and admits every character (41 R157). -/
def fitsAlphabet (c : Config) (L : Nat) (us : List CodeUnit) (a : Alphabet) : Bool :=
  decide (L ≤ maxLength c a) && admits c a us

/-- The selection of an alphabet, with the string's codes packed. -/
def selectAlphabet (c : Config) (L : Nat) (us : List CodeUnit) (a : Alphabet) : Selection :=
  .success a L (pack c.p (alphabetStep a) (us.map (codeOf c a)))

theorem eligible_narrow_iff {a : Alphabet} (ha : a ∈ restrictedAlphabets) (L : Nat) :
    Eligible c L (narrow (initCand c L) us).1 a ↔
      L ≤ maxLength c a ∧ ∀ u ∈ us, candHas (keepMask (classify u)) a = true := by
  rw [Eligible, candHas_narrow, candHas_initCand c L ha, Bool.and_eq_true, decide_eq_true_eq, List.all_eq_true]
  tauto

theorem admits_iff {a : Alphabet} :
    admits c a us = true ↔
      ∀ u ∈ us, candHas (keepMask (classify u)) a = true ∧ lutEnc c a (classify u) ≠ .unres := by
  simp [admits]

/-- With legal tables the turn of an alphabet left by the narrowing selects it, if it admits the string, and else goes
to the next: no character it keeps answers MISS (41 R150, R159). -/
theorem tryAlphabet_of_kept (hlegal : Config.legal c = true) {a : Alphabet} (ha : a ∈ restrictedAlphabets)
    (hkept : ∀ u ∈ us, candHas (keepMask (classify u)) a = true) (L : Nat) (next : Selection) :
    afterTry a L next (tryAlphabet c a (us.map classify)) =
      if admits c a us = true then selectAlphabet c L us a else next := by
  have htried := tryRest_tried c a brZero (us.map classify)
  rw [tryAlphabet_eq_tryRest]
  generalize tryRest c a brZero (us.map classify) = t at htried ⊢
  cases htried with
  | pass hok =>
    have hadmits : admits c a us = true := admits_iff.2 fun u hu =>
      ⟨hkept u hu, by rw [hok _ (List.mem_map_of_mem hu)]; exact LutResult.noConfusion⟩
    rw [if_pos hadmits, List.map_map, afterTry, selectAlphabet, pack_eq_packRest]
    simp only [Function.comp_def, classCode_classify]
  | fail hunres =>
    obtain ⟨_, hcl, hunres⟩ := hunres
    obtain ⟨u, hu, rfl⟩ := List.mem_map.1 hcl
    rw [if_neg fun hadmits => (admits_iff.1 hadmits u hu).2 hunres, afterTry]
  | contract hmiss =>
    obtain ⟨_, hcl, hmiss⟩ := hmiss
    obtain ⟨u, hu, rfl⟩ := List.mem_map.1 hcl
    exact absurd hmiss (lutEnc_ne_miss_of_kept hlegal ha (hkept u hu))

/-- With legal tables the tries select the first alphabet that can take the string (41 R157). -/
theorem tryAll_eq_find (hlegal : Config.legal c = true) (L : Nat) {as : List Alphabet}
    (has : as ⊆ restrictedAlphabets) :
    tryAll c L (narrow (initCand c L) us).1 (narrow (initCand c L) us).2 as =
      (as.find? (fitsAlphabet c L us)).elim .nofit (selectAlphabet c L us) := by
  induction as with
  | nil => rfl
  | cons a as ih =>
    obtain ⟨ha, has⟩ := List.cons_subset.1 has
    have hrest := ih has
    by_cases helig : Eligible c L (narrow (initCand c L) us).1 a
    · have hkept := (eligible_narrow_iff ha L).1 helig
      rw [tryAll_eligible helig, narrow_classes (ne_zero_of_candHas helig.1),
        tryAlphabet_of_kept hlegal ha hkept.2, List.find?_cons]
      rw [narrow_classes (ne_zero_of_candHas helig.1)] at hrest
      cases hadmits : admits c a us <;> simp [fitsAlphabet, hkept.1, hadmits, hrest]
    · have hnot : fitsAlphabet c L us a = false := by
        rw [Bool.eq_false_iff]
        intro hfits
        rw [fitsAlphabet, Bool.and_eq_true, decide_eq_true_eq] at hfits
        exact helig ((eligible_narrow_iff ha L).2 ⟨hfits.1, fun u hu => (admits_iff.1 hfits.2 u hu).1⟩)
      rw [tryAll_ineligible helig, List.find?_cons, hnot, hrest]

theorem selectRestricted_eq_find (hlegal : Config.legal c = true) (L : Nat) :
    selectRestricted c L us =
      (restrictedAlphabets.find? (fitsAlphabet c L us)).elim .nofit (selectAlphabet c L us) :=
  tryAll_eq_find hlegal L (List.Subset.refl _)

end Selected

/-- The restricted alphabets stand in the order of their ids, so the first that can take the string is the lowest. -/
theorem find?_restrictedAlphabets {f : Alphabet → Bool} {a : Alphabet} (ha : a ∈ restrictedAlphabets)
    (hf : f a = true) (hlow : ∀ b ∈ restrictedAlphabets, alphabetId b < alphabetId a → f b = false) :
    restrictedAlphabets.find? f = some a := by
  obtain ⟨low, high, hsplit⟩ := List.append_of_mem ha
  have hsorted : restrictedAlphabets.Pairwise (alphabetId · < alphabetId ·) := by decide
  rw [hsplit] at hlow hsorted ⊢
  refine List.find?_eq_some_iff_append.2 ⟨hf, low, high, rfl, fun b hb => ?_⟩
  have hlt := (List.pairwise_append.1 hsorted).2.2 b hb a List.mem_cons_self
  rw [hlow b (List.mem_append_left _ hb) hlt]
  rfl

end Sys2Proof.Machine
end

section
/-! PROOFS. What ENCODE selects for each kind of string, and the state that each selection ends in (41 R140 to R159,
42 R182 to R188). -/

namespace Sys2Proof.Machine

/-! ### The selection, case by case (41 R156) -/

theorem passesGate_iff {c : Config} {L : Nat} : passesGate c L = true ↔ L ≤ 63 ∧ L ≤ c.p / 4 := decide_eq_true_iff

theorem le_gate_of_le_maxBytes {c : Config} (hlegal : Config.legal c = true) {L : Nat} (hL : L ≤ c.p / 8) :
    passesGate c L = true := by
  have hwidth := legal_width c hlegal
  exact passesGate_iff.2 (by omega)

section Select

variable {c : Config} {L : Nat} {us : List CodeUnit}

theorem select_above_gate (h : passesGate c L = false) : select c L us = .nofit := by rw [select, if_pos h]

theorem select_empty : select c 0 us = .success .utf8 0 0 := by
  rw [select, if_neg (by simp [passesGate]), if_pos rfl]

section Passed

variable (hgate : passesGate c L = true) (hpos : L ≠ 0)
include hgate hpos

theorem select_latin1 (hfit : L ≤ maxBytes c) (hlatin1 : allLatin1 us = true) :
    select c L us = .success .latin1 L (packBytes c (us.map fun u => u.setWidth 8)) := by
  rw [select, hgate, if_neg (Bool.noConfusion), if_neg hpos, if_pos hfit, if_pos hlatin1]

theorem select_utf8 (hfit : L ≤ maxBytes c) (hlatin1 : allLatin1 us = false) :
    select c L us = selectUtf8 c us := by
  rw [select, hgate, if_neg (Bool.noConfusion), if_neg hpos, if_pos hfit, hlatin1, if_neg (Bool.noConfusion)]

theorem select_restricted (hlong : ¬L ≤ maxBytes c) : select c L us = selectRestricted c L us := by
  rw [select, hgate, if_neg (Bool.noConfusion), if_neg hpos, if_neg hlong]

end Passed

theorem selectUtf8_unpaired (h : utf8Serialise us = none) : selectUtf8 c us = .fatal .errBadUtf16 := by
  rw [selectUtf8, h]

theorem selectUtf8_fits {bs : List Byte} (h : utf8Serialise us = some bs) (hfit : bs.length ≤ min (maxBytes c) 63) :
    selectUtf8 c us = .success .utf8 bs.length (packBytes c bs) := by
  simp only [selectUtf8, h, if_pos hfit]

theorem selectUtf8_nofit {bs : List Byte} (h : utf8Serialise us = some bs) (hlong : ¬bs.length ≤ min (maxBytes c) 63) :
    selectUtf8 c us = .nofit := by
  simp only [selectUtf8, h, if_neg hlong]

/-- ERR_CONTRACT is selected only where a restricted alphabet kept by the narrowing meets MISS (41 R150, R159). -/
theorem miss_of_select_contract (h : select c L us = .fatal .errContract) :
    ∃ a ∈ restrictedAlphabets, ∃ u ∈ us, candHas (keepMask (classify u)) a = true ∧ lutEnc c a (classify u) = .miss := by
  cases hgate : passesGate c L with
  | false => rw [select_above_gate hgate] at h; cases h
  | true =>
    by_cases hpos : L = 0
    · rw [hpos, select_empty] at h; cases h
    by_cases hfit : L ≤ maxBytes c
    · cases hlatin1 : allLatin1 us with
      | true => rw [select_latin1 hgate hpos hfit hlatin1] at h; cases h
      | false =>
        rw [select_utf8 hgate hpos hfit hlatin1, selectUtf8] at h
        split at h
        · cases h
        · split at h <;> cases h
    · rw [select_restricted hgate hpos hfit] at h
      obtain ⟨a, ha, hcand, _, hcl, hmiss⟩ := contract_of_tryAll h
      rw [narrow_classes (ne_zero_of_candHas hcand)] at hcl
      obtain ⟨u, hu, rfl⟩ := List.mem_map.1 hcl
      rw [candHas_narrow, Bool.and_eq_true, List.all_eq_true] at hcand
      exact ⟨a, ha, u, hu, hcand.2 u hu, hmiss⟩

end Select

/-! ### The state at the end of ENCODE (42 R183 to R185) -/

section Ends

variable {s : State}

theorem exec_encode_of_success {a : Alphabet} {len acc : Nat}
    (h : select s.cfg (stringLength s) (stringUnits s) = .success a len acc) (hlen : len ≤ 63) :
    exec .encode s = .next
      { s with
        hdr := BitVec.ofNat 12 (0x800 + 64 * alphabetId a + len)
        payload := payloadWords acc
        fsm := .idle
        status := { busy := false, done := true, ok := true, fault := s.status.fault, result := 0x0, ovr := s.status.ovr } } := by
  rw [← headerOf_eq a len hlen]
  exact congrArg (fun r => Host.Outcome.next (applySelection r s)) h

theorem exec_encode_of_nofit (h : select s.cfg (stringLength s) (stringUnits s) = .nofit) :
    exec .encode s = .next
      { s with
        fsm := .idle
        status := { busy := false, done := true, ok := false, fault := s.status.fault, result := 0x1, ovr := s.status.ovr } } :=
  congrArg (fun r => Host.Outcome.next (applySelection r s)) h

theorem exec_encode_of_fatal {r : ResultCode} (h : select s.cfg (stringLength s) (stringUnits s) = .fatal r) :
    exec .encode s = .next
      { s with
        fsm := .fault
        status := { busy := false, done := true, ok := false, fault := true, result := resultBits r, ovr := s.status.ovr } } :=
  congrArg (fun r => Host.Outcome.next (applySelection r s)) h

end Ends

theorem payloadWords_zero : payloadWords 0 = Vector.replicate 16 0 := by decide

/-- Bytes within the payload's capacity are packed exactly (42 R178, R186, R187). -/
theorem packBytes_eq_codeSum {c : Config} {bs : List Byte} (hfit : bs.length ≤ c.p / 8) :
    packBytes c bs = codeSum 8 (bs.map BitVec.toNat) := by
  refine pack_eq_codeSum _ (by rw [List.length_map]; omega) fun b hb => ?_
  obtain ⟨b, -, rfl⟩ := List.mem_map.1 hb
  exact b.isLt

theorem allLatin1_stringUnits {s : State} (hL : s.inLen.toNat ≤ 64) :
    allLatin1 (stringUnits s) = true ↔ ∀ k < s.inLen.toNat, (charAt s k).toNat ≤ 0xFF := by
  rw [stringUnits_eq_map_charAt s hL, allLatin1]
  simp

/-- A Latin-1 character's byte is its value (41 R142). -/
theorem map_toNat_low {us : List CodeUnit} (h : allLatin1 us = true) :
    (us.map fun u => u.setWidth 8).map BitVec.toNat = us.map BitVec.toNat := by
  rw [allLatin1, List.all_eq_true] at h
  rw [List.map_map]
  exact List.map_congr_left fun u hu => toNat_low (of_decide_eq_true (h u hu))

/-! ### The statements -/

/-- Settles O28: the gate is tested first. -/
theorem encodeLengthGate : Obligations.EncodeLengthGate := by
  intro s hlong
  refine exec_encode_of_nofit (select_above_gate ?_)
  rw [Bool.eq_false_iff]
  intro hgate
  have hpass : s.inLen.toNat ≤ 63 ∧ s.inLen.toNat ≤ s.cfg.p / 4 := passesGate_iff.1 hgate
  omega

/-- Settles O29: the empty string passes the gate and is committed as an empty UTF-8 string. -/
theorem encodeEmptyString : Obligations.EncodeEmptyString := by
  intro s hlen
  have hL : stringLength s = 0 := by rw [stringLength, hlen]; rfl
  have hsel : select s.cfg (stringLength s) (stringUnits s) = .success .utf8 0 0 := by rw [hL, select_empty]
  rw [← payloadWords_zero]
  exact ⟨_, exec_encode_of_success hsel (Nat.zero_le _), .of_eq rfl⟩

/-- Settles O30: the test for Latin-1 comes before the restricted alphabets. -/
theorem encodeLatin1WinsIfItFits : Obligations.EncodeLatin1WinsIfItFits := by
  intro s hlegal hpos hfit hunits
  have hgate := le_gate_of_le_maxBytes hlegal hfit
  have hL : s.inLen.toNat ≤ 63 := (passesGate_iff.1 hgate).1
  have hlatin1 := (allLatin1_stringUnits (by omega)).2 hunits
  have hsel := select_latin1 hgate (Nat.one_le_iff_ne_zero.1 hpos) hfit hlatin1
  rw [packBytes_eq_codeSum (by rwa [List.length_map, stringUnits_length s (by omega)]), map_toNat_low hlatin1,
    codeSum_stringUnits s (by omega)] at hsel
  exact ⟨_, exec_encode_of_success hsel hL, .of_eq rfl⟩

/-- Settles O31: the three outcomes of the serialiser (41 R152). -/
theorem encodeFallsBackToUtf8 : Obligations.EncodeFallsBackToUtf8 := by
  intro s hlegal hpos hfit hwide
  have hgate := le_gate_of_le_maxBytes hlegal hfit
  have hL : s.inLen.toNat ≤ 63 := (passesGate_iff.1 hgate).1
  have hlatin1 : allLatin1 (stringUnits s) = false := by
    rw [Bool.eq_false_iff, ne_eq, allLatin1_stringUnits (by omega)]
    intro hunits
    obtain ⟨k, hk, hgt⟩ := hwide
    exact absurd (hunits k hk) (Nat.not_le.2 hgt)
  have hsel := select_utf8 hgate (Nat.one_le_iff_ne_zero.1 hpos) hfit hlatin1
  refine ⟨fun hunpaired => ?_, fun bs hbs hbytes => ?_, fun bs hbs hbytes => ?_⟩
  · rw [selectUtf8_unpaired hunpaired] at hsel
    exact ⟨_, exec_encode_of_fatal hsel, .of_eq rfl⟩
  · have hcap : bs.length ≤ s.cfg.p / 8 := by omega
    have hsum : codeSum 8 (bs.map BitVec.toNat) =
        ∑ j ∈ Finset.range bs.length, (bs.getD j 0).toNat * 2 ^ ((bs.length - 1 - j) * 8) := by
      rw [codeSum, List.length_map]
      refine Finset.sum_congr rfl fun j _ => ?_
      rw [show (0 : Nat) = (0 : Byte).toNat from rfl, List.getD_map]
    rw [selectUtf8_fits hbs hbytes, packBytes_eq_codeSum hcap, hsum] at hsel
    exact ⟨_, exec_encode_of_success hsel (by omega), .of_eq rfl⟩
  · rw [selectUtf8_nofit hbs (Nat.not_le.2 hbytes)] at hsel
    exact ⟨_, exec_encode_of_nofit hsel, .of_eq rfl⟩

/-- Settles O32: with legal tables the tries end at the first alphabet, in the order of the ids, that can take the
string. -/
theorem encodePicksTheLowestAlphabet : Obligations.EncodePicksTheLowestAlphabet := by
  intro s hlegal hL63 hcap hlong
  have hsel := select_restricted (us := stringUnits s) (passesGate_iff.2 ⟨hL63, hcap⟩) (by omega) (Nat.not_le.2 hlong)
  rw [selectRestricted_eq_find hlegal] at hsel
  refine ⟨fun a ha hfit hadmits hlow => ?_, fun hnone => ?_⟩
  · have hfind := find?_restrictedAlphabets (f := fitsAlphabet s.cfg s.inLen.toNat (stringUnits s)) ha
      (by rw [fitsAlphabet, hadmits, decide_eq_true hfit]; rfl) fun b hb hlt => by
        by_cases hbfit : s.inLen.toNat ≤ maxLength s.cfg b
        · rw [fitsAlphabet, hlow b hb hlt hbfit, Bool.and_false]
        · rw [fitsAlphabet, decide_eq_false hbfit, Bool.false_and]
    have hlen : ((stringUnits s).map (codeOf s.cfg a)).length = s.inLen.toNat := by
      rw [List.length_map, stringUnits_length s (by omega)]
    have hpack : pack s.cfg.p (alphabetStep a) ((stringUnits s).map (codeOf s.cfg a)) =
        codeSum (alphabetStep a) ((stringUnits s).map (codeOf s.cfg a)) := by
      refine pack_eq_codeSum _ ?_ fun code hcode => ?_
      · rw [hlen]
        exact (Nat.mul_le_mul_right _ hfit).trans (Nat.div_mul_le_self _ _)
      · obtain ⟨u, -, rfl⟩ := List.mem_map.1 hcode
        exact codeOf_lt hlegal ha u
    rw [hfind, Option.elim_some, selectAlphabet, hpack, codeSum_stringUnits s (by omega)] at hsel
    exact ⟨_, exec_encode_of_success hsel hL63, .of_eq rfl⟩
  · have hfind : restrictedAlphabets.find? (fitsAlphabet s.cfg s.inLen.toNat (stringUnits s)) = none := by
      refine List.find?_eq_none.2 fun a ha hfits => ?_
      rw [fitsAlphabet, Bool.and_eq_true, decide_eq_true_eq] at hfits
      rw [hnone a ha hfits.1] at hfits
      exact Bool.noConfusion hfits.2
    rw [hfind, Option.elim_none] at hsel
    exact ⟨_, exec_encode_of_nofit hsel, .of_eq rfl⟩

/-- Settles O35: an alphabet that meets MISS was kept for a class of the table, which constraint (3) excludes. -/
theorem contractFaultIsUnreachable : Obligations.ContractFaultIsUnreachable := by
  intro s t hconsistent hexec hresult
  obtain rfl : applySelection (select s.cfg (stringLength s) (stringUnits s)) s = t :=
    Host.Outcome.next.inj hexec
  cases hsel : select s.cfg (stringLength s) (stringUnits s) with
  | success => rw [hsel] at hresult; exact absurd (show resultBits .success = 0x8 from hresult) (by decide)
  | nofit => rw [hsel] at hresult; exact absurd (show resultBits .nofit = 0x8 from hresult) (by decide)
  | fatal r =>
    obtain rfl | rfl := select_fatal_code _ _ _ _ hsel
    · rw [hsel] at hresult
      exact absurd (show resultBits .errBadUtf16 = 0x8 from hresult) (by decide)
    · obtain ⟨a, ha, u, -, hkept, hmiss⟩ := miss_of_select_contract hsel
      exact hconsistent _ (properClass_of_kept hkept) a ha hkept hmiss

end Sys2Proof.Machine
end

section
/-! PROOFS. ENCODE arrow by arrow: each engine state of 41 R154, entered in the middle of a command, ends it with the
selection that the functions of 41 R156 give for what is left of the string (41 R155, 70 R287). -/

namespace Sys2Proof.Machine

/-! ### Runs of arrows that end in a selection -/

/-- At most `b` arrows lead from `s` to the end that selection `r` has in `s`, as far as the host and the engine state
go, with BUSY 1 until then. -/
def SelectsWithin (b : Nat) (s : State) (r : Selection) : Prop :=
  ∃ n ≤ b, SameVisible (applySelection r s) (arrows n s) ∧ ∀ m < n, (arrows m s).status.busy = true

/-- The end of a selection does not show the engine's internal registers. -/
theorem OnlyInternalWritten.applySelection_visible {s t : State} (h : OnlyInternalWritten s t) (r : Selection) :
    SameVisible (applySelection r s) (applySelection r t) := by
  rw [h]
  cases r <;> constructor <;> rfl

theorem SameVisible.trans {s t u : State} (h : SameVisible s t) (h' : SameVisible t u) : SameVisible s u where
  cfg := h'.cfg.trans h.cfg
  status := h'.status.trans h.status
  inLen := h'.inLen.trans h.inLen
  hdr := h'.hdr.trans h.hdr
  outLen := h'.outLen.trans h.outLen
  payload := h'.payload.trans h.payload
  charIn := h'.charIn.trans h.charIn
  charOut := h'.charOut.trans h.charOut
  fsm := h'.fsm.trans h.fsm
  op := h'.op.trans h.op
  inReset := h'.inReset.trans h.inReset
  bus := h'.bus.trans h.bus
  observed := h'.observed.trans h.observed

theorem SelectsWithin.mono {b b' : Nat} {r : Selection} {s : State} (h : SelectsWithin b s r) (hb : b ≤ b') :
    SelectsWithin b' s r := by
  obtain ⟨n, hn, hrun⟩ := h
  exact ⟨n, hn.trans hb, hrun⟩

section Runs

variable {b : Nat} {r : Selection} {s s' : State} (busy : s.status.busy = true) (harrow : arrow s = s')
include busy harrow

/-- The last arrow of a command. -/
theorem SelectsWithin.last (hend : SameVisible (applySelection r s) s') : SelectsWithin 1 s r := by
  rw [← harrow] at hend
  refine ⟨1, Nat.le_refl 1, hend, fun m hm => ?_⟩
  rw [Nat.lt_one_iff.1 hm]
  exact busy

/-- An arrow that writes internal registers only, before the others. -/
theorem SelectsWithin.first (hidden : OnlyInternalWritten s s') (h : SelectsWithin b s' r) :
    SelectsWithin (b + 1) s r := by
  obtain ⟨n, hn, hvisible, hbusy⟩ := h
  rw [← harrow] at hidden hvisible hbusy
  refine ⟨n + 1, Nat.succ_le_succ hn, (hidden.applySelection_visible r).trans hvisible, fun m hm => ?_⟩
  cases m with
  | zero => exact busy
  | succ m => exact hbusy m (Nat.lt_of_succ_lt_succ hm)

end Runs

/-! ### The index and what is left of a register array -/

theorem toNat_index_succ {i : BitVec 6} (h : i.toNat < 63) : (i + 1).toNat = i.toNat + 1 := by
  rw [BitVec.toNat_add]
  exact Nat.mod_eq_of_lt (by simp; omega)

theorem index_succ_ne_zero {i : BitVec 6} (h : i.toNat < 63) : i + 1 ≠ 0 := by
  intro hzero
  have hsucc := toNat_index_succ h
  rw [hzero] at hsucc
  exact absurd hsucc (Nat.succ_ne_zero _).symm

/-- The entry at the index is the first of what is left. -/
theorem rest_cons {α : Type} {n : Nat} {v : Vector α n} {L i : Nat} {x : α} {xs : List α}
    (h : (v.toList.take L).drop i = x :: xs) (d : α) :
    i < L ∧ v.getD i d = x ∧ (v.toList.take L).drop (i + 1) = xs := by
  have hlen : i < (v.toList.take L).length := by
    by_contra hge
    rw [List.drop_of_length_le (Nat.le_of_not_lt hge)] at h
    cases h
  rw [List.drop_eq_getElem_cons hlen] at h
  obtain ⟨hx, hxs⟩ := List.cons.inj h
  have hbounds : i < L ∧ i < n := by simpa using hlen
  exact ⟨hbounds.1, by simpa [Vector.getD, hbounds.2] using hx, hxs⟩

theorem rest_nil {α : Type} {n : Nat} {v : Vector α n} {L i : Nat} (hL : L ≤ n) (hi : i ≤ L)
    (h : (v.toList.take L).drop i = []) : i = L := by
  have hlen : L ≤ i := by simpa [hL] using List.drop_eq_nil_iff.1 h
  exact Nat.le_antisymm hi hlen

theorem take_setIfInBounds_succ {α : Type} {n : Nat} (v : Vector α n) {i : Nat} (hi : i < n) (x : α) :
    (v.setIfInBounds i x).toList.take (i + 1) = v.toList.take i ++ [x] := by
  refine List.ext_getElem (by simp; omega) fun k hk _ => ?_
  have hk' : k < i + 1 ∧ k < n := by simpa using hk
  by_cases hki : k = i
  · simp [hki]
  · have hlt : k < i := by omega
    simp [hlt, hk'.2, Ne.symm hki]

/-! ### Inside ENCODE -/

/-- An ENCODE in progress, in engine state `f`, on a string that has passed the gate. -/
structure EncodeAt (f : Fsm) (s : State) : Prop where
  fsm : s.fsm = f
  op : s.op = 1
  busy : s.status.busy = true
  short : stringLength s ≤ 63

/-- The first character needs no case of its own, as ACC is 0 there (41 R154). -/
theorem appendCode_eq {s : State} (hacc : s.i = 0 → s.acc = 0) (a : Alphabet) (code : Nat) :
    appendCode s a code =
      { s with
        acc := brOrLow (brShiftLeft s.cfg.p s.acc (alphabetStep a)) code (alphabetMask a)
        i := s.i + 1 } := by
  unfold appendCode
  split
  next hi => rw [hacc hi, show brShiftLeft s.cfg.p 0 (alphabetStep a) = 0 from brShiftLeft_zero _ _]
  next => rfl

section Arrows

variable {s : State}

/-- COMMIT stores the record (42 R183). -/
theorem EncodeAt.selects_commit (h : EncodeAt .commit s) {a : Alphabet} {len acc : Nat}
    (hhdr : s.hdrNext = headerOf a len) (hacc : s.acc = acc) : SelectsWithin 1 s (.success a len acc) := by
  refine .last h.busy (s' := commitEncode s.hdrNext s.acc s) ?_ (.of_eq ?_)
  · simp only [arrow, h.fsm, arrowCommit, h.op, if_pos]
  · rw [hhdr, hacc, applySelection]

/-- What an arrow inside ENCODE keeps. -/
theorem EncodeAt.of_hidden {f f' : Fsm} {s' : State} (h : EncodeAt f s) (hidden : OnlyInternalWritten s s')
    (hfsm : s'.fsm = f') : EncodeAt f' s' := by
  refine ⟨hfsm, ?_, ?_, ?_⟩ <;> rw [hidden]
  · exact h.op
  · exact h.busy
  · exact h.short

/-- An arrow to COMMIT, and the commit. -/
theorem EncodeAt.selects_by_commit {f : Fsm} {s' : State} (h : EncodeAt f s) (harrow : arrow s = s')
    (hidden : OnlyInternalWritten s s') {a : Alphabet} {len acc : Nat} (hfsm : s'.fsm = .commit)
    (hhdr : s'.hdrNext = headerOf a len) (hacc : s'.acc = acc) : SelectsWithin 2 s (.success a len acc) :=
  .first h.busy harrow hidden ((h.of_hidden hidden hfsm).selects_commit hhdr hacc)

/-- ENC_UTF8: one arrow for the serialiser, and the commit (41 R152, R154). -/
theorem EncodeAt.selects_utf8 (h : EncodeAt .encUtf8 s) :
    SelectsWithin 2 s (selectUtf8 s.cfg (stringUnits s)) := by
  have harrow : arrow s = arrowEncUtf8 s := by rw [arrow, h.fsm]
  unfold arrowEncUtf8 at harrow
  cases hbs : utf8Serialise (stringUnits s) with
  | none =>
    simp only [hbs] at harrow
    rw [selectUtf8_unpaired hbs]
    exact (SelectsWithin.last h.busy harrow (.of_eq rfl)).mono (by decide)
  | some bs =>
    simp only [hbs] at harrow
    by_cases hfit : bs.length ≤ min (maxBytes s.cfg) 63
    · rw [if_pos hfit] at harrow
      rw [selectUtf8_fits hbs hfit]
      exact h.selects_by_commit harrow rfl rfl rfl rfl
    · rw [if_neg hfit] at harrow
      rw [selectUtf8_nofit hbs hfit]
      exact (SelectsWithin.last h.busy harrow (by constructor <;> rfl)).mono (by decide)

/-- ENC_LATIN1, by induction on the characters left: pack them, or turn to UTF-8 at the first above 0xFF
(41 R142, R154). -/
theorem EncodeAt.selects_latin1 (h : EncodeAt .encLatin1 s) {us : List CodeUnit}
    (hus : (stringUnits s).drop s.i.toNat = us) (hi : s.i.toNat ≤ stringLength s) (hacc : s.i = 0 → s.acc = 0) :
    SelectsWithin (us.length + 3) s
      (if allLatin1 us = true then .success .latin1 (stringLength s) (packRest s.cfg.p 8 s.acc (us.map BitVec.toNat))
        else selectUtf8 s.cfg (stringUnits s)) := by
  have harrow : arrow s = arrowEncLatin1 s := by rw [arrow, h.fsm]
  have hshort := h.short
  induction us generalizing s with
  | nil =>
    rw [arrowEncLatin1, if_pos (rest_nil (by omega) hi hus)] at harrow
    exact (h.selects_by_commit harrow rfl rfl rfl rfl).mono (Nat.le_add_left 2 1)
  | cons u us ih =>
    obtain ⟨hlt, hu, hrest⟩ := rest_cons hus 0
    rw [arrowEncLatin1, if_neg (Nat.ne_of_lt hlt), charAt, hu] at harrow
    by_cases hlatin1 : u.toNat ≤ 0xFF
    · have hall : allLatin1 (u :: us) = allLatin1 us := by simp [allLatin1, hlatin1]
      have hsucc := toNat_index_succ (i := s.i) (by omega)
      rw [if_pos hlatin1, appendCode_eq hacc] at harrow
      rw [hall, List.length_cons, Nat.succ_add]
      refine .first h.busy harrow rfl (ih (h.of_hidden rfl h.fsm) ?_ ?_ ?_ ?_ h.short)
      · exact hsucc ▸ hrest
      · exact hsucc ▸ hlt
      · exact fun hzero => absurd hzero (index_succ_ne_zero (by omega))
      · rw [arrow, h.fsm]
    · have hall : allLatin1 (u :: us) = false := by simp [allLatin1, hlatin1]
      have hutf8 : EncodeAt .encUtf8 { s with fsm := .encUtf8, cand := 0 } := h.of_hidden rfl rfl
      rw [if_neg hlatin1] at harrow
      rw [hall, if_neg Bool.noConfusion]
      exact (SelectsWithin.first h.busy harrow rfl hutf8.selects_utf8).mono (Nat.le_add_left 3 _)

/-- ENC_PACK, by induction on the classes left: the try ends the command, or goes back to ENC_TRY for the next alphabet,
from where `next` is selected (41 R150, R154). -/
theorem EncodeAt.selects_pack (h : EncodeAt .encPack s) {a : Alphabet} (ha : alphabetOfId s.tryid.toNat = some a)
    {cls : List CharClass} (hcls : (s.cls.toList.take (stringLength s)).drop s.i.toNat = cls)
    (hi : s.i.toNat ≤ stringLength s) (hacc : s.i = 0 → s.acc = 0) {b : Nat} (hb : 2 ≤ b) {next : Selection}
    (hnext : ∀ i acc, SelectsWithin b { s with fsm := .encTry, tryid := s.tryid + 1, i := i, acc := acc } next) :
    SelectsWithin (cls.length + b) s (afterTry a (stringLength s) next (tryRest s.cfg a s.acc cls)) := by
  have harrow : arrow s = arrowEncPack s := by rw [arrow, h.fsm]
  simp only [arrowEncPack, ha] at harrow
  have hshort := h.short
  induction cls generalizing s with
  | nil =>
    rw [if_pos (rest_nil hshort hi hcls)] at harrow
    exact (h.selects_by_commit harrow rfl rfl rfl rfl).mono (hb.trans (Nat.le_add_left b _))
  | cons cl cls ih =>
    obtain ⟨hlt, hcl, hrest⟩ := rest_cons hcls { kind := .other, val := 0 }
    rw [if_neg (Nat.ne_of_lt hlt), hcl] at harrow
    cases hlut : lutEnc s.cfg a cl with
    | ok code =>
      have hsucc := toNat_index_succ (i := s.i) (by omega)
      simp only [hlut, appendCode_eq hacc] at harrow
      rw [tryRest_ok hlut, List.length_cons, Nat.succ_add]
      refine .first h.busy harrow rfl (ih (h.of_hidden rfl h.fsm) ha ?_ ?_ ?_ hnext ?_ h.short)
      · exact hsucc ▸ hrest
      · exact hsucc ▸ hlt
      · exact fun hzero => absurd hzero (index_succ_ne_zero (by omega))
      · simp only [arrow, h.fsm, arrowEncPack, ha]
    | unres =>
      simp only [hlut] at harrow
      rw [tryRest_unres hlut]
      exact (SelectsWithin.first h.busy harrow rfl (hnext s.i s.acc)).mono (by simp)
    | miss =>
      simp only [hlut] at harrow
      rw [tryRest_miss hlut]
      exact (SelectsWithin.last h.busy harrow (.of_eq rfl)).mono (by omega)

/-- The ids from 1 on are those of the restricted alphabets, in their order (41 R149). -/
theorem alphabetOfId_succ : ∀ k < 9, alphabetOfId (k + 1) = restrictedAlphabets[k]? := by decide

/-- With `k` alphabets done and one left, the next id is that of the next alphabet. -/
theorem next_alphabet {k : Nat} {a : Alphabet} {as : List Alphabet} (h : restrictedAlphabets.drop k = a :: as) :
    k < 9 ∧ alphabetOfId (k + 1) = some a ∧ restrictedAlphabets.drop (k + 1) = as := by
  have hlt : k < restrictedAlphabets.length := by
    by_contra hge
    rw [List.drop_of_length_le (Nat.le_of_not_lt hge)] at h
    cases h
  rw [List.drop_eq_getElem_cons hlt] at h
  obtain ⟨ha, has⟩ := List.cons.inj h
  exact ⟨hlt, by rw [alphabetOfId_succ k hlt, List.getElem?_eq_getElem hlt, ha], has⟩

/-- ENC_TRY, by induction on the alphabets left, `k` of them done: one arrow for each, and those of its try if it gets
its turn (41 R149, R154). The classes are needed only where an alphabet is left. -/
theorem EncodeAt.selects_tries (h : EncodeAt .encTry s) {as : List Alphabet} {k : Nat}
    (has : restrictedAlphabets.drop k = as) (hk : k ≤ 9) (htry : s.tryid.toNat = k + 1) {cls : List CharClass}
    (hcls : s.cand ≠ 0 → s.cls.toList.take (stringLength s) = cls) :
    SelectsWithin (as.length * (stringLength s + 1) + 2) s (tryAll s.cfg (stringLength s) s.cand cls as) := by
  have harrow : arrow s = arrowEncTry s := by rw [arrow, h.fsm]
  induction as generalizing s k with
  | nil =>
    have hdone : 9 ≤ k := List.drop_eq_nil_iff.1 has
    rw [arrowEncTry, if_pos (by omega)] at harrow
    exact (SelectsWithin.last h.busy harrow (.of_eq rfl)).mono (by omega)
  | cons a as ih =>
    obtain ⟨hlt, hid, hrest⟩ := next_alphabet has
    rw [← htry] at hid
    have hsucc : (s.tryid + 1).toNat = k + 1 + 1 := by
      rw [BitVec.toNat_add, htry]
      exact Nat.mod_eq_of_lt (by simp; omega)
    have later (i : BitVec 6) (acc : Nat) :
        SelectsWithin (as.length * (stringLength s + 1) + 2)
          { s with fsm := .encTry, tryid := s.tryid + 1, i := i, acc := acc }
          (tryAll s.cfg (stringLength s) s.cand cls as) :=
      ih (s := { s with fsm := .encTry, tryid := s.tryid + 1, i := i, acc := acc })
        (h.of_hidden rfl rfl) hrest (by omega) hsucc hcls rfl
    rw [arrowEncTry, if_neg (by omega)] at harrow
    simp only [hid] at harrow
    rw [List.length_cons, Nat.succ_mul]
    by_cases helig : Eligible s.cfg (stringLength s) s.cand a
    · have hfilled := hcls (ne_zero_of_candHas helig.1)
      have hlen : cls.length = stringLength s := by
        rw [← hfilled]
        simpa using h.short
      rw [if_pos (show candHas s.cand a = true ∧ stringLength s ≤ maxLength s.cfg a from helig)] at harrow
      rw [tryAll_eligible helig, tryAlphabet_eq_tryRest]
      have hpack := EncodeAt.selects_pack (s := { s with fsm := .encPack, i := 0, acc := brZero })
        (h.of_hidden rfl rfl) hid hfilled (Nat.zero_le _) (fun _ => rfl) (Nat.le_add_left 2 _) later
      exact (SelectsWithin.first h.busy harrow rfl hpack).mono (by omega)
    · rw [if_neg (show ¬(candHas s.cand a = true ∧ stringLength s ≤ maxLength s.cfg a) from helig)] at harrow
      rw [tryAll_ineligible helig]
      have hlater := later s.i s.acc
      rw [← h.fsm] at hlater
      exact (SelectsWithin.first h.busy harrow rfl hlater).mono (by omega)

/-- ENC_CLASSIFY at the end of the string or with no candidate left goes on to the tries (41 R148, R154). -/
theorem EncodeAt.selects_classified (h : EncodeAt .encClassify s)
    (hstop : s.i.toNat = stringLength s ∨ s.cand = 0) :
    SelectsWithin (9 * (stringLength s + 1) + 2 + 1) s
      (tryAll s.cfg (stringLength s) s.cand (s.cls.toList.take s.i.toNat) restrictedAlphabets) := by
  have harrow : arrow s = arrowEncClassify s := by rw [arrow, h.fsm]
  rw [arrowEncClassify, if_pos hstop] at harrow
  have hat : EncodeAt .encTry { s with fsm := .encTry, tryid := 1 } := h.of_hidden rfl rfl
  refine .first h.busy harrow rfl (hat.selects_tries (k := 0) rfl (by decide) rfl fun hcand => ?_)
  obtain hend | hzero := hstop
  · rw [hend]; rfl
  · exact absurd hzero hcand

/-- ENC_CLASSIFY, by induction on the characters left: one arrow for each until the mask is empty, then the tries
(41 R146, R148, R154). -/
theorem EncodeAt.selects_classify (h : EncodeAt .encClassify s) {us : List CodeUnit}
    (hus : (stringUnits s).drop s.i.toNat = us) (hi : s.i.toNat ≤ stringLength s) :
    SelectsWithin (9 * (stringLength s + 1) + 3 + us.length) s
      (tryAll s.cfg (stringLength s) (narrow s.cand us).1 (s.cls.toList.take s.i.toNat ++ (narrow s.cand us).2)
        restrictedAlphabets) := by
  have hshort := h.short
  induction us generalizing s with
  | nil =>
    rw [narrow, List.append_nil]
    exact h.selects_classified (.inl (rest_nil (by omega) hi hus))
  | cons u us ih =>
    obtain ⟨hlt, hu, hrest⟩ := rest_cons hus 0
    by_cases hcand : s.cand = 0
    · have hstopped := h.selects_classified (.inr hcand)
      rw [hcand] at hstopped
      rw [hcand, narrow_zero, List.append_nil]
      exact hstopped.mono (Nat.le_add_right _ _)
    · have harrow : arrow s = arrowEncClassify s := by rw [arrow, h.fsm]
      rw [arrowEncClassify, if_neg (not_or.2 ⟨Nat.ne_of_lt hlt, hcand⟩), charAt, hu] at harrow
      have hsucc := toNat_index_succ (i := s.i) (by omega)
      have hnext := ih
        (s := { s with
                cls := s.cls.setIfInBounds s.i.toNat (classify u)
                cand := s.cand &&& keepMask (classify u)
                i := s.i + 1 })
        (h.of_hidden rfl h.fsm) (hsucc ▸ hrest) (hsucc ▸ hlt) h.short
      simp only [hsucc, take_setIfInBounds_succ s.cls (i := s.i.toNat) (by omega), List.append_assoc,
        List.singleton_append] at hnext
      rw [narrow_cons hcand]
      exact .first h.busy harrow rfl hnext

/-- ENC_GATE (41 R140, R141, R154): the whole of ENCODE from its start. -/
theorem selects_encGate (hfsm : s.fsm = .encGate) (hop : s.op = 1) (busy : s.status.busy = true) :
    SelectsWithin 643 s (select s.cfg (stringLength s) (stringUnits s)) := by
  have harrow : arrow s = arrowEncGate s := by rw [arrow, hfsm]
  unfold arrowEncGate at harrow
  cases hgate : passesGate s.cfg (stringLength s) with
  | false =>
    rw [if_pos hgate] at harrow
    rw [select_above_gate hgate]
    exact (SelectsWithin.last busy harrow (.of_eq rfl)).mono (by decide)
  | true =>
    have hshort : stringLength s ≤ 63 := (passesGate_iff.1 hgate).1
    have hat : EncodeAt .encGate s := ⟨hfsm, hop, busy, hshort⟩
    rw [hgate, if_neg Bool.noConfusion] at harrow
    by_cases hempty : stringLength s = 0
    · rw [if_pos hempty] at harrow
      rw [hempty, select_empty]
      exact (hat.selects_by_commit harrow rfl rfl rfl rfl).mono (by decide)
    have hlen : (stringUnits s).length = stringLength s := stringUnits_length s (by unfold stringLength at hshort; omega)
    rw [if_neg hempty] at harrow
    by_cases hfit : stringLength s ≤ maxBytes s.cfg
    · rw [if_pos hfit] at harrow
      have hrun := EncodeAt.selects_latin1 (s := { s with fsm := .encLatin1, i := 0, acc := brZero })
        (hat.of_hidden rfl rfl) (us := stringUnits s) rfl (Nat.zero_le _) fun _ => rfl
      refine (SelectsWithin.first busy harrow rfl ?_).mono (show (stringUnits s).length + 3 + 1 ≤ 643 by omega)
      cases hlatin1 : allLatin1 (stringUnits s) with
      | true =>
        rw [hlatin1, if_pos rfl] at hrun
        rwa [select_latin1 hgate hempty hfit hlatin1, packBytes, map_toNat_low hlatin1, pack_eq_packRest]
      | false =>
        rw [hlatin1, if_neg Bool.noConfusion] at hrun
        rwa [select_utf8 hgate hempty hfit hlatin1]
    · rw [if_neg hfit] at harrow
      have hrun := EncodeAt.selects_classify
        (s := { s with fsm := .encClassify, i := 0, cand := initCand s.cfg (stringLength s) })
        (hat.of_hidden rfl rfl) (us := stringUnits s) rfl (Nat.zero_le _)
      rw [select_restricted hgate hempty hfit]
      exact (SelectsWithin.first busy harrow rfl hrun).mono
        (show 9 * (stringLength s + 1) + 3 + (stringUnits s).length + 1 ≤ 643 by omega)

end Arrows

/-- Settles O54: ENCODE ends in what it selects, at either grain. -/
theorem encodeArrowsReachTheCommandsResult : Obligations.EncodeArrowsReachTheCommandsResult := by
  intro s hfsm hop busy
  obtain ⟨n, hn, hvisible, hbusy⟩ := selects_encGate hfsm hop busy
  exact ⟨_, n, rfl, Nat.lt_of_le_of_lt hn (by decide), hvisible, hbusy⟩

end Sys2Proof.Machine
end

section
/-! PROOFS. The bit register as arithmetic and the closed form of the packer (42 R172 to R178), the payload marshaller
there and back (42 R181), and the reserved command (42 R190). -/

namespace Sys2Proof.Machine

/-! ### The packer (42 R178) -/

/-- The masked codes' sum, over the indices of the list before masking (42 R178). -/
theorem codeSum_map_mod (w : Nat) (cs : List Nat) :
    codeSum w (cs.map (· % 2 ^ w)) =
      ∑ j ∈ Finset.range cs.length, cs.getD j 0 % 2 ^ w * 2 ^ ((cs.length - 1 - j) * w) := by
  rw [codeSum, List.length_map]
  refine Finset.sum_congr rfl fun j hj => ?_
  have hlt : j < cs.length := Finset.mem_range.1 hj
  simp [List.getD, hlt]

/-- Settles O26: the packer is `codeSum` of the masked codes modulo 2^P, and of the codes themselves where they fit. -/
theorem packClosedForm : Obligations.PackClosedForm := by
  intro p w cs hp _ hw
  refine ⟨?_, fun hfit hcs => ?_⟩
  · rw [pack_eq_codeSum_mod (hw.trans hp), codeSum_map_mod]
  · have hexact : pack p w cs = codeSum w cs := pack_eq_codeSum cs hfit hcs
    exact ⟨hexact, hexact.trans_lt (codeSum_lt hcs)⟩

/-! ### The payload marshaller (42 R181) -/

/-- The words from NW on hold bits at or above P only, which a number below 2^P does not have. -/
theorem payloadWords_eq_zero_of_count_le {c : Config} {a k : Nat} (ha : a < 2 ^ c.p) (hk : k < 16)
    (hcount : payloadWordCount c ≤ k) (d : Word) : (payloadWords a).getD k d = 0 := by
  have hp : c.p ≤ 32 * k := by unfold payloadWordCount at hcount; omega
  have hshift : a >>> (32 * k) = 0 :=
    Nat.shiftRight_eq_zero a _ (lt_of_lt_of_le ha (Nat.pow_le_pow_right (by decide) hp))
  rw [payloadWords, vectorOf_getD, if_pos hk, hshift]
  rfl

/-- Settles O27: the words stored are those that `load_payload` adds up. -/
theorem payloadMarshallingRoundTrip : Obligations.PayloadMarshallingRoundTrip := by
  intro s a hlegal ha
  refine ⟨payloadValue_of_words _ a ha fun k hk => payloadWords_getD a k ?_, fun k hk hcount => ?_⟩
  · exact lt_of_lt_of_le hk (payloadWordCount_le s.cfg hlegal)
  · exact payloadWords_eq_zero_of_count_le ha hk hcount 1

/-! ### The reserved command (42 R190) -/

theorem exec_reservedCmd (s : State) : exec .reservedCmd s = .next (raiseFatal .errBadCmd s) := rfl

/-- An accepted write with OP = 3 starts its command (10 R21). -/
theorem step_write_reservedCmd (s : State) (rest : List Event) (v : Word)
    (hbus : s.bus = .host (.write s.cfg.base 4 v) :: rest) (released : s.inReset = false)
    (idle : s.status.busy = false) (nofault : s.status.fault = false) (hop : field v 0 2 = 3) :
    step s = .next (startCommand 3 { s with bus := rest }) := by
  have hne : field v 0 2 ≠ 0 := by rw [hop]; decide
  rw [step_write_cmd s rest v hbus released, hostWrite_start v { s with bus := rest } idle nofault hne, hop]

/-- The engine's turn in BADCMD is the fatal end of the command (42 R190). -/
theorem step_badCmd (s : State) (rest : List Event) (hbus : s.bus = .engine :: rest) (released : s.inReset = false)
    (busy : s.status.busy = true) (hfsm : s.fsm = .badCmd) :
    step s = .next (raiseFatal .errBadCmd { s with bus := rest }) := by
  rw [step_engine s rest hbus released, ← exec_reservedCmd]
  simp [engineStep, busy, hfsm]

/-- Settles O8: the accepted write starts the command in BADCMD, and the engine's turn there raises ERR_BAD_CMD. -/
theorem reservedCommandHaltsTheEngine : Obligations.ReservedCommandHaltsTheEngine := by
  refine ⟨exec_reservedCmd, fun s rest v hbus released idle nofault hop => ?_⟩
  have hstart : step s = .next (startCommand 3 { s with bus := .engine :: rest }) :=
    step_write_reservedCmd s _ v hbus released idle nofault hop
  have hstarted : statusStarted s.status =
      { busy := true, done := false, ok := false, fault := false, result := 0, ovr := false } := by
    rw [statusStarted, nofault]
  refine ⟨_, hstart, ?_, step_badCmd _ rest rfl released rfl rfl⟩
  rw [startCommand, hstarted]
  rfl

/-! ### The bit register (42 R172 to R176) -/

/-- Settles O25: each operation by what shifts and masks of ones are in arithmetic. -/
theorem bitRegisterArithmetic : Obligations.BitRegisterArithmetic := by
  intro p acc hacc
  refine ⟨fun n => ?_, fun n => ?_, fun w hw => ?_, ?_⟩
  · rw [brShiftLeft, Nat.shiftLeft_eq]
  · exact Nat.shiftRight_eq_div_pow acc n
  · rw [brReadLowByte, Nat.and_two_pow_sub_one_eq_mod, Nat.mod_mod_of_dvd _ (pow_dvd_pow 2 hw)]
  · rw [brReadAll, Nat.and_two_pow_sub_one_eq_mod, Nat.mod_eq_of_lt hacc]

end Sys2Proof.Machine
end

section
/-! PROOFS. The four tests DECODE makes before it unpacks, in the order of 43 R216: a foreign tag, a zero payload, an
undefined id, a length above the capacity; and the state each ends in. -/

namespace Sys2Proof.Machine

section Tests

variable {s : State} {a : Alphabet} {len : BitVec 6}

/-! ### The rows, case by case (43 R202 to R205) -/

theorem rowAlphabet_of_zero (hzero : payloadValue s = 0) : rowAlphabet a len s = commitDecode [] s := by
  obtain ⟨_, h⟩ | ⟨hne, _⟩ | ⟨hne, _⟩ := rowAlphabet_cases a len s
  · exact h
  · exact absurd hzero hne
  · exact absurd hzero hne

theorem rowAlphabet_of_excess (hne : payloadValue s ≠ 0) (hlong : maxLength s.cfg a < len.toNat) :
    rowAlphabet a len s = raiseFatal .errBadLength s := by
  obtain ⟨hzero, _⟩ | ⟨_, _, h⟩ | ⟨_, hfit, _⟩ := rowAlphabet_cases a len s
  · exact absurd hzero hne
  · exact h
  · exact absurd hlong (Nat.not_lt.2 hfit)

theorem rowAlphabet_of_fits (hne : payloadValue s ≠ 0) (hfit : len.toNat ≤ maxLength s.cfg a) :
    rowAlphabet a len s = applyDecResult (decodePayload s.cfg a len.toNat (payloadValue s)) s := by
  obtain ⟨hzero, _⟩ | ⟨_, hlong, _⟩ | ⟨_, _, h⟩ := rowAlphabet_cases a len s
  · exact absurd hzero hne
  · exact absurd hlong (Nat.not_lt.2 hfit)
  · exact h

theorem rowBadId_of_zero (hzero : payloadValue s = 0) : rowBadId s = commitDecode [] s := by
  obtain ⟨_, h⟩ | ⟨hne, _⟩ := rowBadId_cases s
  · exact h
  · exact absurd hzero hne

theorem rowBadId_of_ne_zero (hne : payloadValue s ≠ 0) : rowBadId s = raiseFatal .errBadId s := by
  obtain ⟨hzero, _⟩ | ⟨_, h⟩ := rowBadId_cases s
  · exact absurd hzero hne
  · exact h

/-! ### The command (43 R216) -/

theorem exec_decode_of_foreign (htag : hdrTag s.hdr ≠ 0b10#2) : exec .decode s = .next (finish .foreign s) := by
  rw [exec_decode_eq_dec, dec_foreign _ _ _ htag]
  rfl

/-- The zero payload comes before ID and LEN (43 R203). -/
theorem exec_decode_of_zero (htag : hdrTag s.hdr = 0b10#2) (hzero : payloadValue s = 0) :
    exec .decode s = .next (commitDecode [] s) := by
  have hdec : dec s.cfg s.hdr (payloadValue s) = .success [] := by
    rw [dec, if_neg (not_not.2 (show hdrTag s.hdr = 0b10 from htag)), payload_readAll, if_pos hzero]
  rw [exec_decode_eq_dec, hdec]
  rfl

theorem exec_decode_of_badId (htag : hdrTag s.hdr = 0b10#2) (hne : payloadValue s ≠ 0)
    (hid : 11 ≤ (hdrId s.hdr).toNat) : exec .decode s = .next (raiseFatal .errBadId s) := by
  have hdec : dec s.cfg s.hdr (payloadValue s) = .fatal .errBadId := by
    rw [dec, if_neg (not_not.2 (show hdrTag s.hdr = 0b10 from htag)), payload_readAll, if_neg hne,
      (alphabetOfId_eq_none _).2 hid]
  rw [exec_decode_eq_dec, hdec]
  rfl

/-- DECODE of the header of a defined id runs its alphabet (30 R85). -/
theorem exec_decode_of_header (hhdr : s.hdr = headerWord 0b10#2 (BitVec.ofNat 4 (alphabetId a)) len) :
    exec .decode s = .next (rowAlphabet a len s) := by
  rw [exec_decode, hhdr, (HeaderRow.alphabet a len).decodeHdr_eq, exec_rowOf]

end Tests

/-- Committing the empty string clears every output register (43 R203, R210). -/
theorem commitDecode_nil (s : State) :
    commitDecode [] s =
      { s with
        outLen := 0
        charOut := Vector.replicate 64 0
        fsm := .idle
        status :=
          { busy := false, done := true, ok := true, fault := s.status.fault, result := 0x0
            ovr := s.status.ovr } } := by
  have hzeros : vectorOf 64 (fun k => ([] : List CodeUnit).getD k 0) = Vector.replicate 64 0 := rfl
  rw [commitDecode, hzeros]
  rfl

/-! ### The statements -/

/-- Settles O39: each row of the dispatch table does what `dec` says of its header. -/
theorem decodeComputesDec : Obligations.DecodeComputesDec := exec_decode_eq_dec

/-- Settles O40: the tag is tested first. -/
theorem foreignTagChangesOnlyStatus : Obligations.ForeignTagChangesOnlyStatus := fun _ _ _ =>
  ⟨rfl, rfl, rfl, exec_decode_of_foreign⟩

/-- Settles O41: every row of tag 0b10 tests the payload before anything else. -/
theorem zeroPayloadDecodesToEmpty : Obligations.ZeroPayloadDecodesToEmpty := by
  intro s id len hzero t
  have hbad : SameVisible t (rowBadId s) := .of_eq ((rowBadId_of_zero hzero).trans (commitDecode_nil s))
  refine ⟨fun a => ⟨_, exec_rowOf a len s, ?_⟩, ⟨_, rfl, hbad⟩, ⟨_, rfl, hbad⟩, fun htag => ?_⟩
  · exact .of_eq ((rowAlphabet_of_zero hzero).trans (commitDecode_nil s))
  · exact ⟨_, exec_decode_of_zero htag hzero, .of_eq (commitDecode_nil s)⟩

/-- Settles O42: the ids from 11 on have no alphabet. -/
theorem undefinedIdHaltsTheEngine : Obligations.UndefinedIdHaltsTheEngine := by
  intro s id len hne t
  have hbad : SameVisible t (rowBadId s) := .of_eq (rowBadId_of_ne_zero hne)
  exact ⟨⟨_, rfl, hbad⟩, ⟨_, rfl, hbad⟩, fun htag hid => ⟨_, exec_decode_of_badId htag hne hid, .of_eq rfl⟩⟩

/-- Settles O43: the length is tested against the capacity before anything is unpacked. -/
theorem excessLengthHaltsTheEngine : Obligations.ExcessLengthHaltsTheEngine := by
  intro s a len hne hlong t
  have hrow : SameVisible t (rowAlphabet a len s) := .of_eq (rowAlphabet_of_excess hne hlong)
  exact ⟨⟨_, exec_rowOf a len s, hrow⟩, fun hhdr => ⟨_, exec_decode_of_header hhdr, hrow⟩⟩

end Sys2Proof.Machine
end

section
/-! PROOFS. Unpacking a payload: the code groups as a list, the characters they decode to, and the rows of the nine
restricted alphabets, of LATIN1 and of UTF8 (43 R206 to R211). -/

namespace Sys2Proof.Machine

/-! ### The code groups (30 R86, 43 R206) -/

/-- `BR.readLowByte` under an alphabet's mask is the low group: no group is wider than a byte (42 R175). -/
theorem brReadLowByte_eq_mod {w : Nat} (hw : w ≤ 8) (acc : Nat) : brReadLowByte acc (2 ^ w - 1) = acc % 2 ^ w := by
  rw [brReadLowByte, Nat.and_two_pow_sub_one_eq_mod, Nat.mod_mod_of_dvd _ (pow_dvd_pow 2 hw)]

theorem unpackGroups_succ {w : Nat} (hw : w ≤ 8) (n acc : Nat) (out : List Nat) :
    unpackGroups w (n + 1) acc out = unpackGroups w n (acc / 2 ^ w) (acc % 2 ^ w :: out) := by
  rw [unpackGroups, brReadLowByte_eq_mod hw, brShiftRight, Nat.shiftRight_eq_div_pow]

/-- The groups are put in front of those already read. -/
theorem unpackGroups_append (w n acc : Nat) (out : List Nat) :
    unpackGroups w n acc out = unpackGroups w n acc [] ++ out := by
  induction n generalizing acc out with
  | zero => rfl
  | succ n ih => rw [unpackGroups, unpackGroups, ih _ (_ :: out), ih _ [_], List.append_assoc, List.singleton_append]

/-- Reading from the low end, the last group first, gives the groups in string order (43 R206). -/
theorem unpackGroups_eq_map {w : Nat} (hw : w ≤ 8) (n acc : Nat) :
    unpackGroups w n acc [] = (List.range n).map (groupAt w n acc) := by
  induction n generalizing acc with
  | zero => rfl
  | succ n ih =>
    rw [unpackGroups_succ hw, unpackGroups_append, ih, List.range_succ, List.map_append]
    congr 1
    · refine List.map_congr_left fun k hk => ?_
      have hlt : k < n := List.mem_range.1 hk
      rw [groupAt_succ w n acc k (by omega), if_neg (by omega)]
    · rw [List.map_singleton, groupAt_succ w n acc n (by omega), if_pos rfl]

/-- A group lies below bit `n * w` (43 R211). -/
theorem groupAt_mod {w n k : Nat} (payload : Nat) (hk : k < n) :
    groupAt w n (payload % 2 ^ (n * w)) k = groupAt w n payload k := by
  have hsplit : n * w = (n - 1 - k) * w + (k + 1) * w := by
    rw [← Nat.add_mul]
    congr 1
    omega
  rw [groupAt, groupAt, hsplit, pow_add, Nat.mod_mul_right_div_self,
    Nat.mod_mod_of_dvd _ (pow_dvd_pow 2 (Nat.le_mul_of_pos_left w (Nat.succ_pos k)))]

/-- The groups of a payload are those of its bits below bit `n * w` (43 R211). -/
theorem unpackGroups_mod {w : Nat} (hw : w ≤ 8) (n payload : Nat) :
    unpackGroups w n (payload % 2 ^ (n * w)) [] = unpackGroups w n payload [] := by
  rw [unpackGroups_eq_map hw, unpackGroups_eq_map hw]
  exact List.map_congr_left fun k hk => groupAt_mod payload (List.mem_range.1 hk)

/-! ### The characters of the groups (43 R206 to R208) -/

/-- The character of one group under an alphabet other than UTF8: as it is for LATIN1, else through the LUT. -/
def groupUnit (c : Config) (a : Alphabet) (g : Nat) : Option CodeUnit :=
  if a = .latin1 then some (BitVec.ofNat 16 g) else lutDec c a g

theorem groupUnit_latin1 (c : Config) (g : Nat) : groupUnit c .latin1 g = some (BitVec.ofNat 16 g) := if_pos rfl

theorem groupUnit_restricted (c : Config) {a : Alphabet} (ha : a ∈ restrictedAlphabets) (g : Nat) :
    groupUnit c a g = lutDec c a g := by
  refine if_neg ?_
  rintro rfl
  exact absurd ha (by decide)

/-- The characters of a list of groups, or `none` when a group has no inverse. -/
def groupUnits (c : Config) (a : Alphabet) (gs : List Nat) : Option (List CodeUnit) := gs.mapM (groupUnit c a)

theorem groupUnits_cons (c : Config) (a : Alphabet) (g : Nat) (gs : List Nat) :
    groupUnits c a (g :: gs) =
      (groupUnit c a g).bind fun u => (groupUnits c a gs).map fun us => u :: us := by
  rw [groupUnits, List.mapM_cons]
  cases groupUnit c a g with
  | none => rfl
  | some u => cases h : gs.mapM (groupUnit c a) <;> simp [groupUnits, h]

theorem groupUnits_eq_some {c : Config} {a : Alphabet} {gs : List Nat} {us : List CodeUnit} :
    groupUnits c a gs = some us ↔ gs.map (groupUnit c a) = us.map some := by
  induction gs generalizing us with
  | nil => cases us <;> simp [groupUnits]
  | cons g gs ih =>
    rw [groupUnits_cons, List.map_cons]
    cases us with
    | nil => simp [Option.bind_eq_some_iff]
    | cons u us => simp [Option.bind_eq_some_iff, ih]

theorem groupUnits_eq_none {c : Config} {a : Alphabet} {gs : List Nat} :
    groupUnits c a gs = none ↔ ∃ g ∈ gs, groupUnit c a g = none := by
  induction gs with
  | nil => simp [groupUnits]
  | cons g gs ih =>
    rw [groupUnits_cons, List.exists_mem_cons_iff, ← ih]
    cases groupUnit c a g <;> simp

theorem decodeGroups_eq_groupUnits (c : Config) {a : Alphabet} (ha : a ∈ restrictedAlphabets) (gs : List Nat) :
    decodeGroups c a gs = groupUnits c a gs := by
  induction gs with
  | nil => rfl
  | cons g gs ih =>
    rw [groupUnits_cons, groupUnit_restricted c ha, decodeGroups, ih]
    cases lutDec c a g <;> cases groupUnits c a gs <;> rfl

/-- What unpacking comes to for any alphabet but UTF8 (43 R206 to R208). -/
def unitsResult : Option (List CodeUnit) → DecResult
  | none => .fatal .errBadCode
  | some us => .success us

/-- What unpacking comes to for UTF8 (43 R209). -/
def bytesResult (bs : List Byte) : DecResult :=
  match utf8Deserialise bs with
  | none => .fatal .errBadUtf8
  | some us => .success us

/-- An alphabet is UTF8, LATIN1 or one of the nine restricted ones (40 R100). -/
theorem alphabet_cases (a : Alphabet) : a = .utf8 ∨ a = .latin1 ∨ a ∈ restrictedAlphabets := by cases a <;> decide

theorem decodePayload_utf8 (c : Config) (len payload : Nat) :
    decodePayload c .utf8 len payload = bytesResult ((unpackGroups 8 len payload []).map (BitVec.ofNat 8)) := rfl

theorem decodePayload_units (c : Config) {a : Alphabet} (ha : a ≠ .utf8) (len payload : Nat) :
    decodePayload c a len payload = unitsResult (groupUnits c a (unpackGroups (alphabetStep a) len payload [])) := by
  obtain h | rfl | h := alphabet_cases a
  · exact absurd h ha
  · have hgroups : groupUnits c .latin1 (unpackGroups 8 len payload []) =
        some ((unpackGroups 8 len payload []).map (BitVec.ofNat 16)) := by
      rw [groupUnits_eq_some, List.map_map]
      exact List.map_congr_left fun g _ => groupUnit_latin1 c g
    rw [show alphabetStep .latin1 = 8 from rfl, hgroups]
    rfl
  · rw [← decodeGroups_eq_groupUnits c h]
    cases a with
    | utf8 | latin1 => exact absurd h (by decide)
    | _ => simp only [decodePayload]; cases decodeGroups c _ _ <;> rfl

/-- Unpacking ignores the payload bits at or above bit `len * w` (43 R211). -/
theorem decodePayload_mod (c : Config) (a : Alphabet) (len payload : Nat) :
    decodePayload c a len (payload % 2 ^ (len * alphabetStep a)) = decodePayload c a len payload := by
  simp only [decodePayload, unpackGroups_mod (alphabetStep_le a)]

/-! ### The rows (43 R206 to R211) -/

section Rows

variable {s : State} {a : Alphabet} {len : BitVec 6}

theorem exec_rowOf_of_fits (hne : payloadValue s ≠ 0) (hfit : len.toNat ≤ maxLength s.cfg a) :
    exec (rowOf a len) s = .next (applyDecResult (decodePayload s.cfg a len.toNat (payloadValue s)) s) := by
  rw [exec_rowOf, rowAlphabet_of_fits hne hfit]

theorem exec_rowOf_of_units (ha : a ≠ .utf8) (hne : payloadValue s ≠ 0) (hfit : len.toNat ≤ maxLength s.cfg a)
    {us : List CodeUnit} (hlen : us.length = len.toNat)
    (hunits : ∀ k < len.toNat,
      groupUnit s.cfg a (groupAt (alphabetStep a) len.toNat (payloadValue s) k) = some (us.getD k 0)) :
    exec (rowOf a len) s = .next (commitDecode us s) := by
  have hgroups : groupUnits s.cfg a (unpackGroups (alphabetStep a) len.toNat (payloadValue s) []) = some us := by
    rw [groupUnits_eq_some, unpackGroups_eq_map (alphabetStep_le a)]
    refine List.ext_getElem (by simp [hlen]) fun k hk _ => ?_
    have hk' : k < len.toNat := by simpa using hk
    simpa [List.getD, hlen, hk'] using hunits k hk'
  rw [exec_rowOf_of_fits hne hfit, decodePayload_units s.cfg ha, hgroups]
  rfl

/-- Another payload changes nothing of what a result does but itself. -/
theorem applyDecResult_with_payload (r : DecResult) (s : State) (v : Vector Word 16) :
    applyDecResult r { s with payload := v } = { applyDecResult r s with payload := v } := by cases r <;> rfl

end Rows

theorem restricted_ne_utf8 {a : Alphabet} (ha : a ∈ restrictedAlphabets) : a ≠ .utf8 := by
  rintro rfl
  exact absurd ha (by decide)

/-- Settles O44: the characters given are those of the groups read. -/
theorem restrictedRowsUnpackEachGroup : Obligations.RestrictedRowsUnpackEachGroup := by
  intro s a len us ha hne hfit hlen hgroups
  refine ⟨_, exec_rowOf_of_units (restricted_ne_utf8 ha) hne hfit hlen fun k hk => ?_, .of_eq ?_⟩
  · rw [groupUnit_restricted s.cfg ha, hgroups k hk]
  · rw [← hlen]
    rfl

/-- Settles O45: one group without an inverse leaves no string. -/
theorem codeWithoutInverseHaltsTheEngine : Obligations.CodeWithoutInverseHaltsTheEngine := by
  intro s a len ha hne hfit hspare
  obtain ⟨k, hk, hspare⟩ := hspare
  have hnone : groupUnits s.cfg a (unpackGroups (alphabetStep a) len.toNat (payloadValue s) []) = none := by
    rw [groupUnits_eq_none, unpackGroups_eq_map (alphabetStep_le a)]
    exact ⟨_, List.mem_map_of_mem (List.mem_range.2 hk), by rw [groupUnit_restricted s.cfg ha, hspare]⟩
  refine ⟨_, exec_rowOf_of_fits hne hfit, .of_eq ?_⟩
  rw [decodePayload_units s.cfg (restricted_ne_utf8 ha), hnone]
  rfl

/-- The characters of the LATIN1 row (43 R208). -/
def latin1Units (n payload : Nat) : List CodeUnit :=
  (List.range n).map fun k => BitVec.ofNat 16 (groupAt 8 n payload k)

theorem latin1Units_length (n payload : Nat) : (latin1Units n payload).length = n := by simp [latin1Units]

theorem latin1Units_getD (n payload k : Nat) :
    (latin1Units n payload).getD k 0 = if k < n then BitVec.ofNat 16 (groupAt 8 n payload k) else 0 := by
  by_cases hk : k < n <;> simp [latin1Units, List.getD, hk]

/-- Settles O46: under LATIN1 every group decodes. -/
theorem latin1RowCopiesBytes : Obligations.Latin1RowCopiesBytes := by
  intro s len hne hfit
  have hlen := latin1Units_length len.toNat (payloadValue s)
  refine ⟨_, exec_rowOf_of_units (a := .latin1) (by decide) hne hfit hlen fun k hk => ?_, .of_eq ?_⟩
  · rw [groupUnit_latin1, latin1Units_getD, if_pos hk]
    rfl
  · simp only [commitDecode, latin1Units_getD, hlen]
    rfl

/-- A byte string that is not empty does not deserialise to the empty string (44 R234, R236). -/
theorem utf8Deserialise_length_pos {bs : List Byte} {us : List CodeUnit} (h : utf8Deserialise bs = some us)
    (hbs : 0 < bs.length) : 0 < us.length := by
  obtain ⟨b, bs, rfl⟩ := List.exists_cons_of_length_pos hbs
  rw [utf8Deserialise, List.length_cons, utf8Loop] at h
  split at h
  · cases h
  · next cp used _ =>
    obtain ⟨rest, _, rfl⟩ := Option.map_eq_some_iff.1 h
    have hunits : 0 < (utf16OfScalar cp).length := by rw [utf16OfScalar_length]; split <;> decide
    rw [List.length_append]
    omega

/-- Settles O47: the groups are the bytes, and the deserialiser decides. -/
theorem utf8RowDeserialisesBytes : Obligations.Utf8RowDeserialisesBytes := by
  intro s len hne hfit bs
  have hbs : (unpackGroups 8 len.toNat (payloadValue s) []).map (BitVec.ofNat 8) = bs := by
    rw [unpackGroups_eq_map (by decide), List.map_map]
    rfl
  have hbslen : bs.length = len.toNat := by simp [bs]
  have hexec : exec (.decUtf8 len) s = .next (applyDecResult (bytesResult bs) s) := by
    rw [← hbs, ← decodePayload_utf8 s.cfg]
    exact exec_rowOf_of_fits (a := .utf8) hne hfit
  refine ⟨fun us hus => ⟨?_, fun hpos => ?_, _, hexec, .of_eq ?_⟩, fun hnone => ⟨_, hexec, .of_eq ?_⟩⟩
  · exact hbslen ▸ utf8Deserialise_length_le bs us hus
  · exact utf8Deserialise_length_pos hus (hbslen ▸ hpos)
  · rw [bytesResult, hus]
    rfl
  · rw [bytesResult, hnone]
    rfl

/-- Settles O48: both payloads are unpacked from the same bits. -/
theorem bitsAboveTheLastGroupAreIgnored : Obligations.BitsAboveTheLastGroupAreIgnored := by
  intro s a len v hne hne' hbits
  refine ⟨_, _, exec_rowOf a len s, exec_rowOf a len _, .of_eq ?_⟩
  by_cases hfit : len.toNat ≤ maxLength s.cfg a
  · rw [rowAlphabet_of_fits hne hfit, rowAlphabet_of_fits hne' hfit, applyDecResult_with_payload,
      ← decodePayload_mod, ← hbits, decodePayload_mod]
  · rw [rowAlphabet_of_excess hne (Nat.lt_of_not_le hfit), rowAlphabet_of_excess hne' (Nat.lt_of_not_le hfit)]
    rfl

end Sys2Proof.Machine
end

section
/-! PROOFS. UTF-8 there and back: what the serialiser makes of a string of scalar values, the deserialiser takes apart
again (spec 44). -/

namespace Sys2Proof.Machine

/-! ### Scalar values and UTF-16 (44 R230, R236) -/

/-- A Unicode scalar value: below 0x110000 and no surrogate (44 R230). -/
def IsScalar (cp : Nat) : Prop := cp < 0xD800 ∨ 0xE000 ≤ cp ∧ cp < 0x110000

theorem isHighSurrogate_iff {u : CodeUnit} : isHighSurrogate u = true ↔ 0xD800 ≤ u.toNat ∧ u.toNat ≤ 0xDBFF :=
  decide_eq_true_iff

theorem isLowSurrogate_iff {u : CodeUnit} : isLowSurrogate u = true ↔ 0xDC00 ≤ u.toNat ∧ u.toNat ≤ 0xDFFF :=
  decide_eq_true_iff

/-- A code unit that is no surrogate is a scalar value of its own. -/
theorem isScalar_toNat {u : CodeUnit} (hhigh : ¬isHighSurrogate u = true) (hlow : ¬isLowSurrogate u = true) :
    IsScalar u.toNat := by
  have hlt := u.isLt
  rw [isHighSurrogate_iff] at hhigh
  rw [isLowSurrogate_iff] at hlow
  unfold IsScalar
  omega

theorem isScalar_pairScalar {u v : CodeUnit} (hu : isHighSurrogate u = true) (hv : isLowSurrogate v = true) :
    IsScalar (pairScalar u v) := by
  rw [isHighSurrogate_iff] at hu
  rw [isLowSurrogate_iff] at hv
  unfold IsScalar pairScalar
  omega

theorem utf16OfScalar_toNat (u : CodeUnit) : utf16OfScalar u.toNat = [u] := by
  have hlt := u.isLt
  rw [utf16OfScalar, if_pos (by omega), BitVec.ofNat_toNat, BitVec.setWidth_eq]

/-- The two surrogates of a pair are the halves of its scalar value (44 R236). -/
theorem utf16OfScalar_pairScalar {u v : CodeUnit} (hu : isHighSurrogate u = true) (hv : isLowSurrogate v = true) :
    utf16OfScalar (pairScalar u v) = [u, v] := by
  rw [isHighSurrogate_iff] at hu
  rw [isLowSurrogate_iff] at hv
  have hoffset : pairScalar u v - 0x10000 = (u.toNat - 0xD800) * 2 ^ 10 + (v.toNat - 0xDC00) := by
    unfold pairScalar
    omega
  have hhigh : BitVec.ofNat 16 (0xD800 + bitsOf (pairScalar u v - 0x10000) 19 10) = u := by
    apply BitVec.eq_of_toNat_eq
    rw [BitVec.toNat_ofNat, bitsOf, hoffset]
    omega
  have hlow : BitVec.ofNat 16 (0xDC00 + bitsOf (pairScalar u v - 0x10000) 9 0) = v := by
    apply BitVec.eq_of_toNat_eq
    rw [BitVec.toNat_ofNat, bitsOf, hoffset]
    omega
  rw [utf16OfScalar, if_neg (by unfold pairScalar; omega), hhigh, hlow]

/-- The scalar values of a string without unpaired surrogates give the string back (44 R230, R236). -/
theorem utf16Scalars_spec (us : List CodeUnit) (cps : List Nat) (h : utf16Scalars us = some cps) :
    (∀ cp ∈ cps, IsScalar cp) ∧ (cps.map utf16OfScalar).flatten = us := by
  induction us using utf16Scalars.induct generalizing cps with
  | case1 =>
    cases h
    exact ⟨fun _ hcp => absurd hcp List.not_mem_nil, rfl⟩
  | case2 u hsurrogate =>
    rw [utf16Scalars, if_pos hsurrogate] at h
    cases h
  | case3 u hsurrogate =>
    rw [utf16Scalars, if_neg hsurrogate] at h
    cases h
    rw [Bool.or_eq_true, not_or] at hsurrogate
    obtain ⟨hhigh, hlow⟩ := hsurrogate
    exact ⟨List.forall_mem_singleton.2 (isScalar_toNat hhigh hlow), by simp [utf16OfScalar_toNat]⟩
  | case4 u v rest hu hv ih =>
    rw [utf16Scalars, if_pos hu, if_pos hv] at h
    obtain ⟨cps, hcps, rfl⟩ := Option.map_eq_some_iff.1 h
    obtain ⟨hscalar, hunits⟩ := ih cps hcps
    refine ⟨List.forall_mem_cons.2 ⟨isScalar_pairScalar hu hv, hscalar⟩, ?_⟩
    rw [List.map_cons, List.flatten_cons, utf16OfScalar_pairScalar hu hv, hunits]
    rfl
  | case5 u v rest hu hv =>
    rw [utf16Scalars, if_pos hu, if_neg hv] at h
    cases h
  | case6 u v rest hu hlow =>
    rw [utf16Scalars, if_neg hu, if_pos hlow] at h
    cases h
  | case7 u v rest hu hlow ih =>
    rw [utf16Scalars, if_neg hu, if_neg hlow] at h
    obtain ⟨cps, hcps, rfl⟩ := Option.map_eq_some_iff.1 h
    obtain ⟨hscalar, hunits⟩ := ih cps hcps
    refine ⟨List.forall_mem_cons.2 ⟨isScalar_toNat hu hlow, hscalar⟩, ?_⟩
    rw [List.map_cons, List.flatten_cons, utf16OfScalar_toNat, hunits]
    rfl

/-! ### One scalar value (44 R232, R235) -/

/-- The rows of 44 R235 stand in the order of their lead bytes, so the row a lead byte lies in is the row found. -/
theorem find?_utf8Rows {r : Utf8Row} {b : Byte} (hr : r ∈ utf8Rows) (hb : inByteRange b r.lead = true) :
    utf8Rows.find? (fun r => inByteRange b r.lead) = some r := by
  obtain ⟨low, high, hsplit⟩ := List.append_of_mem hr
  have hsorted : utf8Rows.Pairwise (fun r r' => r.lead.2 < r'.lead.1) := by decide
  rw [hsplit] at hsorted ⊢
  refine List.find?_eq_some_iff_append.2 ⟨hb, low, high, rfl, fun r' hr' => ?_⟩
  have hlt := (List.pairwise_append.1 hsorted).2.2 r' hr' r List.mem_cons_self
  have hin : r.lead.1 ≤ b.toNat ∧ b.toNat ≤ r.lead.2 := of_decide_eq_true hb
  simp only [inByteRange, Bool.not_eq_true', decide_eq_false_iff_not]
  omega

theorem utf8Scalar_of_row {r : Utf8Row} {b : Byte} (hr : r ∈ utf8Rows) (hb : inByteRange b r.lead = true)
    (bs : List Byte) :
    utf8Scalar (b :: bs) =
      (utf8Conts r.conts (utf8LeadBits b r.conts.length) bs).map fun cp => (cp, r.conts.length + 1) := by
  rw [utf8Scalar, find?_utf8Rows hr hb]

theorem inByteRange_ofNat {x lo hi : Nat} (h : lo ≤ x ∧ x ≤ hi) (hx : x < 256) :
    inByteRange (BitVec.ofNat 8 x) (lo, hi) = true := by
  refine decide_eq_true ?_
  rw [BitVec.toNat_ofNat, Nat.mod_eq_of_lt hx]
  exact h

/-- A continuation byte in its range hands on six bits. -/
theorem utf8Conts_cont {x lo hi : Nat} (hx : x < 64) (h : lo ≤ 0x80 + x ∧ 0x80 + x ≤ hi) (rs : List (Nat × Nat))
    (cp : Nat) (bs : List Byte) :
    utf8Conts ((lo, hi) :: rs) cp (BitVec.ofNat 8 (0x80 + x) :: bs) = utf8Conts rs (cp * 2 ^ 6 + x) bs := by
  rw [utf8Conts, if_pos (inByteRange_ofNat h (by omega)), BitVec.toNat_ofNat]
  congr 2
  omega

/-! The four lengths of 44 R232, with the fields as arithmetic. -/

theorem utf8OfScalar_one {cp : Nat} (h : cp ≤ 0x7F) : utf8OfScalar cp = [BitVec.ofNat 8 cp] := if_pos h

theorem utf8OfScalar_two {cp : Nat} (hlo : 0x80 ≤ cp) (hhi : cp ≤ 0x7FF) :
    utf8OfScalar cp = [BitVec.ofNat 8 (0xC0 + cp / 64), BitVec.ofNat 8 (0x80 + cp % 64)] := by
  have hlead : bitsOf cp 10 6 = cp / 64 := by unfold bitsOf; omega
  have hlast : bitsOf cp 5 0 = cp % 64 := by unfold bitsOf; omega
  rw [utf8OfScalar, if_neg (by omega), if_pos hhi]
  simp only [hlead, hlast]

theorem utf8OfScalar_three {cp : Nat} (hlo : 0x800 ≤ cp) (hhi : cp ≤ 0xFFFF) :
    utf8OfScalar cp =
      [BitVec.ofNat 8 (0xE0 + cp / 4096), BitVec.ofNat 8 (0x80 + cp / 64 % 64), BitVec.ofNat 8 (0x80 + cp % 64)] := by
  have hlead : bitsOf cp 15 12 = cp / 4096 := by unfold bitsOf; omega
  have hmid : bitsOf cp 11 6 = cp / 64 % 64 := by unfold bitsOf; omega
  have hlast : bitsOf cp 5 0 = cp % 64 := by unfold bitsOf; omega
  rw [utf8OfScalar, if_neg (by omega), if_neg (by omega), if_pos hhi]
  simp only [hlead, hmid, hlast]

theorem utf8OfScalar_four {cp : Nat} (hlo : 0x10000 ≤ cp) (hhi : cp < 0x110000) :
    utf8OfScalar cp =
      [BitVec.ofNat 8 (0xF0 + cp / 262144), BitVec.ofNat 8 (0x80 + cp / 4096 % 64),
        BitVec.ofNat 8 (0x80 + cp / 64 % 64), BitVec.ofNat 8 (0x80 + cp % 64)] := by
  have hlead : bitsOf cp 20 18 = cp / 262144 := by unfold bitsOf; omega
  have hsecond : bitsOf cp 17 12 = cp / 4096 % 64 := by unfold bitsOf; omega
  have hthird : bitsOf cp 11 6 = cp / 64 % 64 := by unfold bitsOf; omega
  have hlast : bitsOf cp 5 0 = cp % 64 := by unfold bitsOf; omega
  rw [utf8OfScalar, if_neg (by omega), if_neg (by omega), if_neg (by omega)]
  simp only [hlead, hsecond, hthird, hlast]

theorem utf8Scalar_one {cp : Nat} (hcp : cp ≤ 0x7F) (rest : List Byte) :
    utf8Scalar (BitVec.ofNat 8 cp :: rest) = some (cp, 1) := by
  have hr : ⟨(0x00, 0x7F), []⟩ ∈ utf8Rows := by decide
  have hbits : utf8LeadBits (BitVec.ofNat 8 cp) 0 = cp := by
    rw [utf8LeadBits, BitVec.toNat_ofNat]
    omega
  rw [utf8Scalar_of_row hr (inByteRange_ofNat ⟨Nat.zero_le _, hcp⟩ (by omega)), List.length_nil, hbits]
  rfl

theorem utf8Scalar_two {cp : Nat} (hlo : 0x80 ≤ cp) (hhi : cp ≤ 0x7FF) (rest : List Byte) :
    utf8Scalar (BitVec.ofNat 8 (0xC0 + cp / 64) :: BitVec.ofNat 8 (0x80 + cp % 64) :: rest) = some (cp, 2) := by
  have hr : ⟨(0xC2, 0xDF), [(0x80, 0xBF)]⟩ ∈ utf8Rows := by decide
  have hbits : utf8LeadBits (BitVec.ofNat 8 (0xC0 + cp / 64)) 1 = cp / 64 := by
    rw [utf8LeadBits, BitVec.toNat_ofNat]
    omega
  have hvalue : cp / 64 * 2 ^ 6 + cp % 64 = cp := by omega
  rw [utf8Scalar_of_row hr (inByteRange_ofNat (by omega) (by omega)), List.length_singleton, hbits,
    utf8Conts_cont (by omega) (by omega), hvalue]
  rfl

/-- Three bytes, by the row whose ranges the first two lie in. -/
theorem utf8Scalar_three {cp lo hi lo' hi' : Nat} (hcp : cp ≤ 0xFFFF)
    (hr : ⟨(lo, hi), [(lo', hi'), (0x80, 0xBF)]⟩ ∈ utf8Rows) (hlead : lo ≤ 0xE0 + cp / 4096 ∧ 0xE0 + cp / 4096 ≤ hi)
    (hsecond : lo' ≤ 0x80 + cp / 64 % 64 ∧ 0x80 + cp / 64 % 64 ≤ hi') (rest : List Byte) :
    utf8Scalar (BitVec.ofNat 8 (0xE0 + cp / 4096) :: BitVec.ofNat 8 (0x80 + cp / 64 % 64) ::
      BitVec.ofNat 8 (0x80 + cp % 64) :: rest) = some (cp, 3) := by
  have hbits : utf8LeadBits (BitVec.ofNat 8 (0xE0 + cp / 4096)) 2 = cp / 4096 := by
    rw [utf8LeadBits, BitVec.toNat_ofNat]
    omega
  have hvalue : (cp / 4096 * 2 ^ 6 + cp / 64 % 64) * 2 ^ 6 + cp % 64 = cp := by omega
  rw [utf8Scalar_of_row hr (inByteRange_ofNat hlead (by omega)),
    show [(lo', hi'), (0x80, 0xBF)].length = 2 from rfl, hbits, utf8Conts_cont (by omega) hsecond,
    utf8Conts_cont (by omega) (by omega), hvalue]
  rfl

/-- Four bytes, by the row whose ranges the first two lie in. -/
theorem utf8Scalar_four {cp lo hi lo' hi' : Nat} (hcp : cp < 0x110000)
    (hr : ⟨(lo, hi), [(lo', hi'), (0x80, 0xBF), (0x80, 0xBF)]⟩ ∈ utf8Rows)
    (hlead : lo ≤ 0xF0 + cp / 262144 ∧ 0xF0 + cp / 262144 ≤ hi)
    (hsecond : lo' ≤ 0x80 + cp / 4096 % 64 ∧ 0x80 + cp / 4096 % 64 ≤ hi') (rest : List Byte) :
    utf8Scalar (BitVec.ofNat 8 (0xF0 + cp / 262144) :: BitVec.ofNat 8 (0x80 + cp / 4096 % 64) ::
      BitVec.ofNat 8 (0x80 + cp / 64 % 64) :: BitVec.ofNat 8 (0x80 + cp % 64) :: rest) = some (cp, 4) := by
  have hbits : utf8LeadBits (BitVec.ofNat 8 (0xF0 + cp / 262144)) 3 = cp / 262144 := by
    rw [utf8LeadBits, BitVec.toNat_ofNat]
    · omega
    all_goals decide
  have hvalue : ((cp / 262144 * 2 ^ 6 + cp / 4096 % 64) * 2 ^ 6 + cp / 64 % 64) * 2 ^ 6 + cp % 64 = cp := by omega
  rw [utf8Scalar_of_row hr (inByteRange_ofNat hlead (by omega)),
    show [(lo', hi'), (0x80, 0xBF), (0x80, 0xBF)].length = 3 from rfl, hbits, utf8Conts_cont (by omega) hsecond,
    utf8Conts_cont (by omega) (by omega), utf8Conts_cont (by omega) (by omega), hvalue]
  rfl

/-- The bytes of a scalar value lie in one of the nine rows of 44 R235, and give the value back. -/
theorem utf8Scalar_utf8OfScalar {cp : Nat} (h : IsScalar cp) (rest : List Byte) :
    utf8Scalar (utf8OfScalar cp ++ rest) = some (cp, (utf8OfScalar cp).length) := by
  unfold IsScalar at h
  obtain hhi | ⟨hlo, hhi⟩ | ⟨hlo, hhi⟩ | ⟨hlo, hhi⟩ :
      cp ≤ 0x7F ∨ 0x80 ≤ cp ∧ cp ≤ 0x7FF ∨ 0x800 ≤ cp ∧ cp ≤ 0xFFFF ∨ 0x10000 ≤ cp ∧ cp < 0x110000 := by omega
  · rw [utf8OfScalar_one hhi]
    exact utf8Scalar_one hhi rest
  · rw [utf8OfScalar_two hlo hhi]
    exact utf8Scalar_two hlo hhi rest
  · rw [utf8OfScalar_three hlo hhi]
    obtain hE0 | hE1 | hED | hEE :
        cp < 0x1000 ∨ 0x1000 ≤ cp ∧ cp < 0xD000 ∨ 0xD000 ≤ cp ∧ cp < 0xD800 ∨ 0xE000 ≤ cp := by omega
    · have hr : ⟨(0xE0, 0xE0), [(0xA0, 0xBF), (0x80, 0xBF)]⟩ ∈ utf8Rows := by decide
      exact utf8Scalar_three hhi hr (by omega) (by omega) rest
    · have hr : ⟨(0xE1, 0xEC), [(0x80, 0xBF), (0x80, 0xBF)]⟩ ∈ utf8Rows := by decide
      exact utf8Scalar_three hhi hr (by omega) (by omega) rest
    · have hr : ⟨(0xED, 0xED), [(0x80, 0x9F), (0x80, 0xBF)]⟩ ∈ utf8Rows := by decide
      exact utf8Scalar_three hhi hr (by omega) (by omega) rest
    · have hr : ⟨(0xEE, 0xEF), [(0x80, 0xBF), (0x80, 0xBF)]⟩ ∈ utf8Rows := by decide
      exact utf8Scalar_three hhi hr (by omega) (by omega) rest
  · rw [utf8OfScalar_four hlo hhi]
    obtain hF0 | hF1 | hF4 : cp < 0x40000 ∨ 0x40000 ≤ cp ∧ cp < 0x100000 ∨ 0x100000 ≤ cp := by omega
    · have hr : ⟨(0xF0, 0xF0), [(0x90, 0xBF), (0x80, 0xBF), (0x80, 0xBF)]⟩ ∈ utf8Rows := by decide
      exact utf8Scalar_four hhi hr (by omega) (by omega) rest
    · have hr : ⟨(0xF1, 0xF3), [(0x80, 0xBF), (0x80, 0xBF), (0x80, 0xBF)]⟩ ∈ utf8Rows := by decide
      exact utf8Scalar_four hhi hr (by omega) (by omega) rest
    · have hr : ⟨(0xF4, 0xF4), [(0x80, 0x8F), (0x80, 0xBF), (0x80, 0xBF)]⟩ ∈ utf8Rows := by decide
      exact utf8Scalar_four hhi hr (by omega) (by omega) rest

/-! ### Strings (44 R237) -/

theorem utf8OfScalar_ne_nil (cp : Nat) : utf8OfScalar cp ≠ [] := by
  simp only [utf8OfScalar]
  repeat' split
  all_goals exact List.cons_ne_nil _ _

/-- One turn of the deserialiser's loop. -/
theorem utf8Loop_succ (fuel : Nat) {bs : List Byte} {cp used : Nat} (h : utf8Scalar bs = some (cp, used)) :
    utf8Loop (fuel + 1) bs = (utf8Loop fuel (bs.drop used)).map (utf16OfScalar cp ++ ·) := by
  cases bs with
  | nil => cases h
  | cons b bs => rw [utf8Loop, h]

/-- The loop takes the bytes of a list of scalar values apart, one value a turn. -/
theorem utf8Loop_bytes {cps : List Nat} (hcps : ∀ cp ∈ cps, IsScalar cp) {fuel : Nat} (hfuel : cps.length ≤ fuel) :
    utf8Loop fuel (cps.map utf8OfScalar).flatten = some (cps.map utf16OfScalar).flatten := by
  induction cps generalizing fuel with
  | nil => cases fuel <;> rfl
  | cons cp cps ih =>
    obtain ⟨hcp, hcps⟩ := List.forall_mem_cons.1 hcps
    obtain ⟨fuel, rfl⟩ := Nat.exists_eq_add_of_le' (Nat.one_le_of_lt hfuel)
    rw [List.map_cons, List.flatten_cons, utf8Loop_succ fuel (utf8Scalar_utf8OfScalar hcp _), List.drop_left,
      ih hcps (Nat.le_of_succ_le_succ hfuel)]
    rfl

theorem length_le_bytes (cps : List Nat) : cps.length ≤ (cps.map utf8OfScalar).flatten.length := by
  induction cps with
  | nil => exact Nat.zero_le _
  | cons cp cps ih =>
    have hpos := List.length_pos_of_ne_nil (utf8OfScalar_ne_nil cp)
    rw [List.map_cons, List.flatten_cons, List.length_append, List.length_cons]
    omega

/-- Deserialising the serialised string gives it back (44 R237). -/
theorem utf8Deserialise_utf8Serialise {us : List CodeUnit} {bs : List Byte} (h : utf8Serialise us = some bs) :
    utf8Deserialise bs = some us := by
  obtain ⟨cps, hcps, rfl⟩ := Option.map_eq_some_iff.1 h
  obtain ⟨hscalar, hunits⟩ := utf16Scalars_spec us cps hcps
  rw [utf8Deserialise, utf8Loop_bytes hscalar (length_le_bytes cps), hunits]

end Sys2Proof.Machine
end

section
/-! PROOFS. The record of a string: what ENCODE can select, that DECODE takes it apart again (43 R215), and which
strings get a zero payload (43 R212). -/

namespace Sys2Proof.Machine

/-! ### Packing and unpacking (42 R178, 43 R206) -/

/-- The first group stands above the others. -/
theorem unpackGroups_succ_eq_cons {w : Nat} (hw : w ≤ 8) (n acc : Nat) :
    unpackGroups w (n + 1) acc [] = acc / 2 ^ (n * w) % 2 ^ w :: unpackGroups w n acc [] := by
  rw [unpackGroups_eq_map hw, unpackGroups_eq_map hw, List.range_succ_eq_map, List.map_cons, List.map_map]
  congr 1
  refine List.map_congr_left fun k _ => ?_
  simp only [Function.comp_apply, groupAt, Nat.succ_eq_add_one, Nat.add_sub_cancel, Nat.add_comm k 1, Nat.sub_sub]

/-- Codes that fit their width are the groups of the number they stand for. -/
theorem unpackGroups_codeSum {w : Nat} (hw : w ≤ 8) {cs : List Nat} (hcs : ∀ c ∈ cs, c < 2 ^ w) :
    unpackGroups w cs.length (codeSum w cs) [] = cs := by
  induction cs with
  | nil => rfl
  | cons c cs ih =>
    obtain ⟨hc, hcs⟩ := List.forall_mem_cons.1 hcs
    have hsum := codeSum_lt hcs
    have hpos := Nat.two_pow_pos (cs.length * w)
    have hhead : codeSum w (c :: cs) / 2 ^ (cs.length * w) % 2 ^ w = c := by
      rw [codeSum_cons, Nat.mul_comm, Nat.mul_add_div hpos, Nat.div_eq_of_lt hsum, Nat.add_zero, Nat.mod_eq_of_lt hc]
    have htail : codeSum w (c :: cs) % 2 ^ (cs.length * w) = codeSum w cs := by
      rw [codeSum_cons, Nat.mul_comm, Nat.mul_add_mod, Nat.mod_eq_of_lt hsum]
    rw [List.length_cons, unpackGroups_succ_eq_cons hw, hhead, ← unpackGroups_mod hw, htail, ih hcs]

theorem codeSum_eq_zero {w : Nat} {cs : List Nat} : codeSum w cs = 0 ↔ ∀ c ∈ cs, c = 0 := by
  induction cs with
  | nil => simp [codeSum_nil]
  | cons c cs ih =>
    rw [codeSum_cons, Nat.add_eq_zero_iff, Nat.mul_eq_zero, ih, List.forall_mem_cons]
    simp

/-! ### What ENCODE can select (41 R156) -/

/-- A successful selection: the alphabet, LEN and the payload, with the string in the four cases of 41 R156. -/
inductive Selected (c : Config) (L : Nat) (us : List CodeUnit) : Alphabet → Nat → Nat → Prop
  | empty (hL : L = 0) : Selected c L us .utf8 0 0
  | latin1 (hpos : 0 < L) (hfit : L ≤ maxBytes c) (hlatin1 : allLatin1 us = true) :
      Selected c L us .latin1 L (packBytes c (us.map fun u => u.setWidth 8))
  | utf8 (hpos : 0 < L) (hfit : L ≤ maxBytes c) (hwide : allLatin1 us = false) (bs : List Byte)
      (hbs : utf8Serialise us = some bs) (hlen : bs.length ≤ min (maxBytes c) 63) :
      Selected c L us .utf8 bs.length (packBytes c bs)
  | restricted (hlong : maxBytes c < L) (hshort : L ≤ 63) (hcap : L ≤ c.p / 4) (a : Alphabet)
      (hfind : restrictedAlphabets.find? (fitsAlphabet c L us) = some a) :
      Selected c L us a L (pack c.p (alphabetStep a) (us.map (codeOf c a)))

theorem selected_of_select {c : Config} (hlegal : Config.legal c = true) {L : Nat} {us : List CodeUnit} {a : Alphabet}
    {n acc : Nat} (h : select c L us = .success a n acc) : Selected c L us a n acc := by
  cases hgate : passesGate c L with
  | false => rw [select_above_gate hgate] at h; cases h
  | true =>
    obtain ⟨hshort, hcap⟩ := passesGate_iff.1 hgate
    by_cases hL : L = 0
    · subst hL
      rw [select_empty] at h
      cases h
      exact .empty rfl
    have hpos := Nat.pos_of_ne_zero hL
    by_cases hfit : L ≤ maxBytes c
    · cases hlatin1 : allLatin1 us with
      | true =>
        rw [select_latin1 hgate hL hfit hlatin1] at h
        cases h
        exact .latin1 hpos hfit hlatin1
      | false =>
        rw [select_utf8 hgate hL hfit hlatin1] at h
        cases hbs : utf8Serialise us with
        | none => rw [selectUtf8_unpaired hbs] at h; cases h
        | some bs =>
          by_cases hlen : bs.length ≤ min (maxBytes c) 63
          · rw [selectUtf8_fits hbs hlen] at h
            cases h
            exact .utf8 hpos hfit hlatin1 bs hbs hlen
          · rw [selectUtf8_nofit hbs hlen] at h; cases h
    · rw [select_restricted hgate hL hfit, selectRestricted_eq_find hlegal] at h
      cases hfind : restrictedAlphabets.find? (fitsAlphabet c L us) with
      | none => rw [hfind] at h; cases h
      | some b =>
        rw [hfind] at h
        cases h
        exact .restricted (Nat.lt_of_not_le hfit) hshort hcap _ hfind

/-- A string above the gate is not selected (41 R140). -/
theorem length_le_of_select {c : Config} {L : Nat} {us : List CodeUnit} {a : Alphabet} {n acc : Nat}
    (h : select c L us = .success a n acc) : L ≤ 63 := by
  by_contra hlong
  rw [select_above_gate (Bool.eq_false_iff.2 fun hgate => hlong (passesGate_iff.1 hgate).1)] at h
  cases h

/-- A successful ENCODE commits the record of a successful selection (42 R183). -/
theorem exec_encode_success {s t : State} (h : exec .encode s = .next t) (hresult : t.status.result = 0) :
    ∃ a n acc, select s.cfg (stringLength s) (stringUnits s) = .success a n acc ∧
      t = commitEncode (headerOf a n) acc s := by
  obtain rfl : applySelection (select s.cfg (stringLength s) (stringUnits s)) s = t := Host.Outcome.next.inj h
  cases hsel : select s.cfg (stringLength s) (stringUnits s) with
  | success a n acc => exact ⟨a, n, acc, rfl, rfl⟩
  | nofit => rw [hsel] at hresult; exact absurd (show resultBits .nofit = 0 from hresult) (by decide)
  | fatal r =>
    rw [hsel] at hresult
    exact absurd hresult (resultBits_ne_zero_of_fatal r (resultBits_of_select_fatal _ _ _ r hsel))

/-- The payload integer of a committed record is the number selected (42 R181, R183). -/
theorem payloadValue_commitEncode {s : State} (hlegal : Config.legal s.cfg = true) (h : BitVec 12) {acc : Nat}
    (hacc : acc < 2 ^ s.cfg.p) : payloadValue (commitEncode h acc s) = acc :=
  payloadValue_of_words _ acc hacc fun k hk =>
    payloadWords_getD acc k (lt_of_lt_of_le hk (payloadWordCount_le s.cfg hlegal))

theorem fits_of_find {c : Config} {L : Nat} {us : List CodeUnit} {a : Alphabet}
    (hfind : restrictedAlphabets.find? (fitsAlphabet c L us) = some a) :
    a ∈ restrictedAlphabets ∧ L ≤ maxLength c a ∧ admits c a us = true := by
  have hfits := List.find?_some hfind
  rw [fitsAlphabet, Bool.and_eq_true, decide_eq_true_eq] at hfits
  exact ⟨List.mem_of_find?_eq_some hfind, hfits.1, hfits.2⟩

/-- The bytes of a packed byte string, unpacked (43 R208, R209). -/
theorem unpackGroups_packBytes {c : Config} {bs : List Byte} (hfit : bs.length ≤ c.p / 8) :
    unpackGroups 8 bs.length (packBytes c bs) [] = bs.map BitVec.toNat := by
  have hlt : ∀ x ∈ bs.map BitVec.toNat, x < 2 ^ 8 := fun x hx => by
    obtain ⟨b, -, rfl⟩ := List.mem_map.1 hx
    exact b.isLt
  have hunpack := unpackGroups_codeSum (by decide) hlt
  rwa [List.length_map, ← packBytes_eq_codeSum hfit] at hunpack

section Legal

variable {c : Config} (hlegal : Config.legal c = true) {L : Nat} {us : List CodeUnit} {a : Alphabet}
include hlegal

/-- Each character that an alphabet admits has a code, which decodes to it (40 R120). -/
theorem lut_of_admits (ha : a ∈ restrictedAlphabets) (hadmits : admits c a us = true) {u : CodeUnit} (hu : u ∈ us) :
    lutDec c a (codeOf c a u) = some u := by
  obtain ⟨hkept, hresolved⟩ := admits_iff.1 hadmits u hu
  cases hlut : lutEnc c a (classify u) with
  | ok code =>
    rw [← classCode_classify, classCode_of_ok hlut]
    exact (gridProper_lutEnc_ok_iff (legal_grid c hlegal a ha).1 u code).1 hlut
  | unres => exact absurd hlut hresolved
  | miss => exact absurd hlut (lutEnc_ne_miss_of_kept hlegal ha hkept)

/-- The payload of a string in a restricted alphabet (42 R178). -/
theorem pack_codes_eq_codeSum (hus : us.length = L) (ha : a ∈ restrictedAlphabets) (hfit : L ≤ maxLength c a) :
    pack c.p (alphabetStep a) (us.map (codeOf c a)) = codeSum (alphabetStep a) (us.map (codeOf c a)) := by
  refine pack_eq_codeSum _ ?_ fun code hcode => ?_
  · rw [List.length_map, hus]
    exact (Nat.mul_le_mul_right _ hfit).trans (Nat.div_mul_le_self _ _)
  · obtain ⟨u, -, rfl⟩ := List.mem_map.1 hcode
    exact codeOf_lt hlegal ha u

/-- Unpacking the payload of a record gives the string back, within the bounds that DECODE tests (43 R215). -/
theorem Selected.decodes {n acc : Nat} (h : Selected c L us a n acc) (hus : us.length = L) :
    n ≤ 63 ∧ n ≤ maxLength c a ∧ decodePayload c a n acc = .success us := by
  have hwidth := legal_width c hlegal
  cases h with
  | empty hL =>
    rw [List.length_eq_zero_iff.1 (hus.trans hL)]
    exact ⟨Nat.zero_le _, Nat.zero_le _, rfl⟩
  | latin1 hpos hfit hlatin1 =>
    have hunpack : unpackGroups 8 L (packBytes c (us.map fun u => u.setWidth 8)) [] = us.map BitVec.toNat := by
      have hbytes := unpackGroups_packBytes (c := c) (bs := us.map fun u => u.setWidth 8)
        (by rw [List.length_map, hus]; exact hfit)
      rwa [List.length_map, hus, map_toNat_low hlatin1] at hbytes
    have hunits : groupUnits c .latin1 (us.map BitVec.toNat) = some us := by
      rw [groupUnits_eq_some, List.map_map]
      exact List.map_congr_left fun u _ => by
        rw [Function.comp_apply, groupUnit_latin1, BitVec.ofNat_toNat, BitVec.setWidth_eq]
    have hfit' : L ≤ c.p / 8 := hfit
    refine ⟨by omega, hfit, ?_⟩
    rw [decodePayload_units c (by decide), show alphabetStep .latin1 = 8 from rfl, hunpack, hunits]
    rfl
  | utf8 hpos hfit hwide bs hbs hlen =>
    obtain ⟨hcap, hshort⟩ := le_min_iff.1 hlen
    have hbytes : (bs.map BitVec.toNat).map (BitVec.ofNat 8) = bs := by simp [Function.comp_def]
    refine ⟨hshort, hcap, ?_⟩
    rw [decodePayload_utf8, unpackGroups_packBytes hcap, hbytes, bytesResult, utf8Deserialise_utf8Serialise hbs]
  | restricted hlong hshort hcap a hfind =>
    obtain ⟨ha, hfit, hadmits⟩ := fits_of_find hfind
    have hlt : ∀ code ∈ us.map (codeOf c a), code < 2 ^ alphabetStep a := fun code hcode => by
      obtain ⟨u, -, rfl⟩ := List.mem_map.1 hcode
      exact codeOf_lt hlegal ha u
    have hunpack := unpackGroups_codeSum (alphabetStep_le a) hlt
    rw [List.length_map, hus] at hunpack
    have hunits : groupUnits c a (us.map (codeOf c a)) = some us := by
      rw [groupUnits_eq_some, List.map_map]
      exact List.map_congr_left fun u hu => by
        rw [Function.comp_apply, groupUnit_restricted c ha, lut_of_admits hlegal ha hadmits hu]
    refine ⟨hshort, hfit, ?_⟩
    rw [decodePayload_units c (restricted_ne_utf8 ha), pack_codes_eq_codeSum hlegal hus ha hfit, hunpack, hunits]
    rfl

end Legal

/-! ### The round trip (43 R215) -/

/-- DECODE of a committed record: the empty string if its payload is zero, the string otherwise. -/
theorem exec_decode_commitEncode {s : State} (hlegal : Config.legal s.cfg = true) {us : List CodeUnit} {a : Alphabet}
    {n acc : Nat} (hn : n ≤ 63) (hfit : n ≤ maxLength s.cfg a)
    (hunpack : decodePayload s.cfg a n acc = .success us) (hacc : acc < 2 ^ s.cfg.p) :
    exec .decode (commitEncode (headerOf a n) acc s) =
      .next (commitDecode (if acc = 0 then [] else us) (commitEncode (headerOf a n) acc s)) := by
  have hpayload := payloadValue_commitEncode hlegal (headerOf a n) hacc
  have hlen : (BitVec.ofNat 6 n).toNat = n := by rw [BitVec.toNat_ofNat, Nat.mod_eq_of_lt (by omega)]
  rw [exec_decode_of_header (show (commitEncode (headerOf a n) acc s).hdr = headerWord 0b10#2 _ _ from rfl)]
  by_cases hzero : acc = 0
  · rw [rowAlphabet_of_zero (hpayload.trans hzero), if_pos hzero]
  · rw [rowAlphabet_of_fits (by rwa [hpayload]) (by rwa [hlen]), hpayload, hlen, commitEncode_cfg, hunpack,
      if_neg hzero]
    rfl

/-- Settles O50: the payload committed is a selected one, and DECODE unpacks the string from it unless it is zero. -/
theorem encodeThenDecodeGivesTheString : Obligations.EncodeThenDecodeGivesTheString := by
  intro s t hlegal hexec hresult
  obtain ⟨a, n, acc, hsel, rfl⟩ := exec_encode_success hexec hresult
  have hL : s.inLen.toNat ≤ 63 := length_le_of_select hsel
  have hus : (stringUnits s).length = s.inLen.toNat := stringUnits_length s (by omega)
  obtain ⟨hn, hfit, hunpack⟩ := (selected_of_select hlegal hsel).decodes hlegal hus
  obtain ⟨-, hwidth, -⟩ := legal_width s.cfg hlegal
  have hacc := select_success_lt _ _ _ _ _ _ hwidth hsel
  have hpayload := payloadValue_commitEncode hlegal (headerOf a n) hacc
  refine ⟨_, exec_decode_commitEncode hlegal hn hfit hunpack hacc, rfl, fun hcond => ?_, fun hzero => ?_⟩
  · have hstring : (if acc = 0 then [] else stringUnits s) = stringUnits s := by
      split
      · next hzero =>
        have hempty : s.inLen = 0 := hcond.resolve_right fun hne => hne (hpayload.trans hzero)
        rw [hempty] at hus
        exact (List.length_eq_zero_iff.1 hus).symm
      · rfl
    rw [hstring]
    refine ⟨?_, fun k hk => ?_⟩
    · rw [commitDecode_outLen, BitVec.toNat_ofNat, hus, Nat.mod_eq_of_lt (by omega)]
    · rw [commitDecode_charOut, vectorOf_getD, if_pos (by omega), stringUnits_eq_map_charAt s (by omega)]
      simp [List.getD, hk]
  · rw [if_pos (hpayload.symm.trans hzero)]
    rfl

/-! ### Records with a zero payload (43 R212) -/

/-- Zero bytes deserialise to NUL characters. -/
theorem utf8Loop_zeros {n fuel : Nat} (h : n ≤ fuel) :
    utf8Loop fuel (List.replicate n 0#8) = some (List.replicate n 0#16) := by
  induction n generalizing fuel with
  | zero => cases fuel <;> rfl
  | succ n ih =>
    obtain ⟨fuel, rfl⟩ := Nat.exists_eq_add_of_le' (Nat.one_le_of_lt h)
    rw [List.replicate_succ, utf8Loop_succ fuel (utf8Scalar_one (Nat.zero_le _) _), List.drop_succ_cons, List.drop_zero,
      ih (Nat.le_of_succ_le_succ h)]
    rfl

/-- A string with a character above 0xFF has a byte that is not zero: zero bytes would be those of NUL characters. -/
theorem exists_byte_ne_zero {us : List CodeUnit} {bs : List Byte} (hbs : utf8Serialise us = some bs)
    (hwide : ∃ u ∈ us, 0xFF < u.toNat) : ∃ b ∈ bs, b ≠ 0 := by
  by_contra hzeros
  have hbs0 : bs = List.replicate bs.length 0#8 :=
    List.eq_replicate_iff.2 ⟨rfl, fun b hb => by_contra fun hne => hzeros ⟨b, hb, hne⟩⟩
  have hback := utf8Deserialise_utf8Serialise hbs
  rw [utf8Deserialise, hbs0, List.length_replicate, utf8Loop_zeros (Nat.le_refl _)] at hback
  obtain ⟨u, hu, hgt⟩ := hwide
  rw [← Option.some.inj hback] at hu
  rw [List.eq_of_mem_replicate hu] at hgt
  exact absurd hgt (by decide)

theorem allLatin1_eq_false {us : List CodeUnit} : allLatin1 us = false ↔ ∃ u ∈ us, 0xFF < u.toNat := by
  simp [allLatin1]

/-- Zero packs from zero bytes alone. -/
theorem packBytes_eq_zero {c : Config} {bs : List Byte} (hfit : bs.length ≤ c.p / 8) :
    packBytes c bs = 0 ↔ ∀ b ∈ bs, b = 0 := by
  rw [packBytes_eq_codeSum hfit, codeSum_eq_zero, List.forall_mem_map]
  exact forall₂_congr fun b _ => ⟨fun h => BitVec.eq_of_toNat_eq h, fun h => congrArg BitVec.toNat h⟩

/-- The reference tables at a width and placement of their own (40 R107 to R116). -/
def ReferenceTables (c : Config) : Prop := c = { referenceConfig with p := c.p, base := c.base }

theorem ReferenceTables.gridOf_eq {c : Config} (h : ReferenceTables c) (a : Alphabet) :
    gridOf c a = gridOf referenceConfig a := by
  rw [show c = { referenceConfig with p := c.p, base := c.base } from h]
  cases a <;> rfl

theorem ReferenceTables.unresolved_eq {c : Config} (h : ReferenceTables c) (a : Alphabet) :
    unresolved c a = unresolved referenceConfig a := by
  rw [show c = { referenceConfig with p := c.p, base := c.base } from h]
  cases a <;> rfl

theorem ReferenceTables.lutDec_eq {c : Config} (h : ReferenceTables c) (a : Alphabet) (code : Nat) :
    lutDec c a code = lutDec referenceConfig a code := by
  simp only [lutDec, h.gridOf_eq, h.unresolved_eq]

theorem ReferenceTables.lutEnc_eq {c : Config} (h : ReferenceTables c) (a : Alphabet) (cl : CharClass) :
    lutEnc c a cl = lutEnc referenceConfig a cl := by
  simp only [lutEnc, h.gridOf_eq, h.unresolved_eq]

theorem ReferenceTables.admits_eq {c : Config} (h : ReferenceTables c) (a : Alphabet) (us : List CodeUnit) :
    admits c a us = admits referenceConfig a us := by
  simp only [admits, h.lutEnc_eq]

/-- Code 0 of every restricted alphabet is a character that NUMERICAL admits: '0', a space or a comma. -/
theorem numerical_admits_code_zero : ∀ a ∈ restrictedAlphabets,
    ((lutDec referenceConfig a 0).all fun v => admits referenceConfig .numerical [v]) = true := by decide +kernel

/-- A string that NUMERICAL can take is packed under it: it is the first alphabet tried. -/
theorem find?_numerical {c : Config} {L : Nat} {us : List CodeUnit} (hfit : L ≤ c.p / 4)
    (hadmits : admits c .numerical us = true) :
    restrictedAlphabets.find? (fitsAlphabet c L us) = some .numerical := by
  have hfirst : ∀ b ∈ restrictedAlphabets, ¬alphabetId b < alphabetId .numerical := by decide
  refine find?_restrictedAlphabets (by decide) ?_ fun b hb hlt => absurd hlt (hfirst b hb)
  rw [fitsAlphabet, hadmits, decide_eq_true (show L ≤ maxLength c .numerical from hfit)]
  rfl

theorem admits_of_forall {c : Config} {a : Alphabet} {us : List CodeUnit} (h : ∀ u ∈ us, admits c a [u] = true) :
    admits c a us = true :=
  admits_iff.2 fun u hu => admits_iff.1 (h u hu) u (List.mem_singleton_self u)

/-- In the reference tables a record of a restricted alphabet has a zero payload only for '0's: the other characters of
code 0 are NUMERICAL's too, which is tried first and gives them another code (43 R212). -/
theorem pack_codes_eq_zero {c : Config} (hlegal : Config.legal c = true) (htables : ReferenceTables c) {L : Nat}
    {us : List CodeUnit} (hus : us.length = L) (hcap : L ≤ c.p / 4) {a : Alphabet}
    (hfind : restrictedAlphabets.find? (fitsAlphabet c L us) = some a) :
    pack c.p (alphabetStep a) (us.map (codeOf c a)) = 0 ↔ ∀ u ∈ us, u = 0x30#16 := by
  obtain ⟨ha, hfit, hadmits⟩ := fits_of_find hfind
  have hnumerical : (∀ u ∈ us, admits c .numerical [u] = true) → a = .numerical := fun h =>
    Option.some.inj (hfind.symm.trans (find?_numerical hcap (admits_of_forall h)))
  have hdigit : lutDec referenceConfig .numerical 0 = some 0x30#16 := by decide +kernel
  rw [pack_codes_eq_codeSum hlegal hus ha hfit, codeSum_eq_zero, List.forall_mem_map]
  constructor
  · intro hzero
    have hcode : ∀ u ∈ us, lutDec referenceConfig a 0 = some u := fun u hu => by
      rw [← htables.lutDec_eq, ← hzero u hu]
      exact lut_of_admits hlegal ha hadmits hu
    obtain rfl : a = .numerical := hnumerical fun u hu => by
      have hall := numerical_admits_code_zero a ha
      rwa [hcode u hu, Option.all_some, ← htables.admits_eq] at hall
    exact fun u hu => Option.some.inj ((hcode u hu).symm.trans hdigit)
  · intro hzeros
    obtain rfl : a = .numerical := hnumerical fun u hu => by
      have hall := numerical_admits_code_zero .numerical (by decide)
      rwa [hdigit, Option.all_some, ← htables.admits_eq, ← hzeros u hu] at hall
    intro u hu
    have hdec : lutDec c .numerical 0 = some u := by rw [htables.lutDec_eq, hdigit, hzeros u hu]
    have hlut := (gridProper_lutEnc_ok_iff (legal_grid c hlegal _ ha).1 u 0).2 hdec
    rw [← classCode_classify, classCode_of_ok hlut]

/-- The record of a string that is not empty, by the case it was selected in (43 R212). -/
theorem Selected.payload_eq_zero {c : Config} (hlegal : Config.legal c = true) (htables : ReferenceTables c) {L : Nat}
    {us : List CodeUnit} {a : Alphabet} {n acc : Nat} (h : Selected c L us a n acc) (hus : us.length = L)
    (hpos : 0 < L) :
    acc = 0 ↔ (L ≤ c.p / 8 ∧ ∀ u ∈ us, u = 0x00#16) ∨ (c.p / 8 < L ∧ ∀ u ∈ us, u = 0x30#16) := by
  cases h with
  | empty hL => exact absurd hL hpos.ne'
  | latin1 _ hfit hlatin1 =>
    have hfit' : L ≤ c.p / 8 := hfit
    rw [packBytes_eq_zero (by rwa [List.length_map, hus]), List.forall_mem_map]
    simp only [hfit', Nat.not_lt.2 hfit', true_and, false_and, or_false]
    rw [allLatin1, List.all_eq_true] at hlatin1
    refine forall₂_congr fun u hu => ⟨fun hlow => ?_, fun hnul => by rw [hnul]; rfl⟩
    rw [← setWidth_low (of_decide_eq_true (hlatin1 u hu)), hlow]
    rfl
  | utf8 _ hfit hwide bs hbs hlen =>
    have hfit' : L ≤ c.p / 8 := hfit
    have hwide' := allLatin1_eq_false.1 hwide
    obtain ⟨hcap, -⟩ := le_min_iff.1 hlen
    rw [packBytes_eq_zero hcap]
    obtain ⟨b, hb, hne⟩ := exists_byte_ne_zero hbs hwide'
    obtain ⟨u, hu, hgt⟩ := hwide'
    refine iff_of_false (fun hzero => hne (hzero b hb)) ?_
    rintro (⟨_, hnul⟩ | ⟨hlong, _⟩)
    · rw [hnul u hu] at hgt
      exact absurd hgt (by decide)
    · exact absurd hfit' (Nat.not_le.2 hlong)
  | restricted hlong _ hcap a hfind =>
    have hlong' : c.p / 8 < L := hlong
    rw [pack_codes_eq_zero hlegal htables hus hcap hfind]
    simp only [hlong', Nat.not_le.2 hlong', true_and, false_and, false_or]

theorem forall_mem_stringUnits {s : State} (hL : s.inLen.toNat ≤ 64) (P : CodeUnit → Prop) :
    (∀ u ∈ stringUnits s, P u) ↔ ∀ k < s.inLen.toNat, P (charAt s k) := by
  rw [stringUnits_eq_map_charAt s hL, List.forall_mem_map]
  simp only [List.mem_range]

/-- Settles O51, by the cases of the selection. -/
theorem onlyNulAndZeroStringsCollide : Obligations.OnlyNulAndZeroStringsCollide := by
  intro s t hlegal htables hexec hresult hpos
  obtain ⟨a, n, acc, hsel, rfl⟩ := exec_encode_success hexec hresult
  have hL : s.inLen.toNat ≤ 63 := length_le_of_select hsel
  obtain ⟨-, hwidth, -⟩ := legal_width s.cfg hlegal
  have hacc := select_success_lt _ _ _ _ _ _ hwidth hsel
  have hus : (stringUnits s).length = s.inLen.toNat := stringUnits_length s (by omega)
  rw [payloadValue_commitEncode hlegal (headerOf a n) hacc,
    (selected_of_select hlegal hsel).payload_eq_zero hlegal htables hus hpos,
    forall_mem_stringUnits (by omega), forall_mem_stringUnits (by omega)]
  rfl

end Sys2Proof.Machine
end

section
/-! PROOFS. DECODE arrow by arrow: each engine state of 43 R214, entered in the middle of a command, ends it with the
result that `dec` gives for what is left of the record (43 R214, 70 R287). -/

namespace Sys2Proof.Machine

/-! ### Runs of arrows that end in a result of `dec` -/

/-- At most `b` arrows lead from `s` to the end that result `r` has in `s`, as far as the host and the engine state go,
with BUSY 1 until then, as `SelectsWithin` says of ENCODE. -/
def DecodesWithin (b : Nat) (s : State) (r : DecResult) : Prop :=
  ∃ n ≤ b, SameVisible (applyDecResult r s) (arrows n s) ∧ ∀ m < n, (arrows m s).status.busy = true

/-- The end of a result does not show the engine's internal registers. -/
theorem OnlyInternalWritten.applyDecResult_visible {s t : State} (h : OnlyInternalWritten s t) (r : DecResult) :
    SameVisible (applyDecResult r s) (applyDecResult r t) := by
  rw [h]
  cases r <;> constructor <;> rfl

theorem DecodesWithin.mono {b b' : Nat} {r : DecResult} {s : State} (h : DecodesWithin b s r) (hb : b ≤ b') :
    DecodesWithin b' s r := by
  obtain ⟨n, hn, hrun⟩ := h
  exact ⟨n, hn.trans hb, hrun⟩

section Runs

variable {b : Nat} {r : DecResult} {s s' : State} (busy : s.status.busy = true) (harrow : arrow s = s')
include busy harrow

/-- The last arrow of a command. -/
theorem DecodesWithin.last (hend : applyDecResult r s = s') : DecodesWithin 1 s r := by
  refine ⟨1, Nat.le_refl 1, .of_eq (harrow.trans hend.symm), fun m hm => ?_⟩
  rw [Nat.lt_one_iff.1 hm]
  exact busy

/-- An arrow that writes internal registers only, before the others. -/
theorem DecodesWithin.first (hidden : OnlyInternalWritten s s') (h : DecodesWithin b s' r) :
    DecodesWithin (b + 1) s r := by
  obtain ⟨n, hn, hvisible, hbusy⟩ := h
  rw [← harrow] at hidden hvisible hbusy
  refine ⟨n + 1, Nat.succ_le_succ hn, (hidden.applyDecResult_visible r).trans hvisible, fun m hm => ?_⟩
  cases m with
  | zero => exact busy
  | succ m => exact hbusy m (Nat.lt_of_succ_lt_succ hm)

end Runs

/-! ### Inside DECODE -/

/-- A DECODE in progress, in engine state `f`. -/
structure DecodeAt (f : Fsm) (s : State) : Prop where
  fsm : s.fsm = f
  op : s.op = 2
  busy : s.status.busy = true

/-- The index with `m` groups left to take is `m - 1`, and it stands for -1 after the last (log 9). -/
theorem index_of_left {i : BitVec 6} {m : Nat} (hm : m < 63) (hi : i = BitVec.ofNat 6 (m + 1) - 1) :
    i.toNat = m ∧ i ≠ indexDone ∧ i - 1 = BitVec.ofNat 6 m - 1 := by
  have hidx : i = BitVec.ofNat 6 m := by
    rw [hi, BitVec.ofNat_add]
    exact BitVec.add_sub_cancel _ _
  have hnat : i.toNat = m := by rw [hidx, BitVec.toNat_ofNat, Nat.mod_eq_of_lt (by omega)]
  refine ⟨hnat, fun hdone => ?_, by rw [hidx]⟩
  have : i.toNat = 63 := congrArg BitVec.toNat hdone
  omega

/-- What is left of a register array after its entry `m` is written, from that entry on. -/
theorem rest_setIfInBounds {α : Type} {n : Nat} (v : Vector α n) {m L : Nat} (hm : m < L) (hL : L ≤ n) (x : α) :
    ((v.setIfInBounds m x).toList.take L).drop m = x :: (v.toList.take L).drop (m + 1) := by
  refine List.ext_getElem (by simp; omega) fun k hk _ => ?_
  have hk' : m + k < L := by simp at hk; omega
  cases k with
  | zero => simp
  | succ k => simp [show m + (k + 1) = m + 1 + k by omega, show m ≠ m + 1 + k by omega]

section Arrows

variable {s : State}

/-- What an arrow inside DECODE keeps. -/
theorem DecodeAt.of_hidden {f f' : Fsm} {s' : State} (h : DecodeAt f s) (hidden : OnlyInternalWritten s s')
    (hfsm : s'.fsm = f') : DecodeAt f' s' := by
  refine ⟨hfsm, ?_, ?_⟩ <;> rw [hidden]
  · exact h.op
  · exact h.busy

/-- An arrow to COMMIT, and the commit of the pending characters (43 R210). -/
theorem DecodeAt.decodes_by_commit {f : Fsm} {s' : State} (h : DecodeAt f s) (harrow : arrow s = s')
    (hidden : OnlyInternalWritten s s') {us : List CodeUnit} (hfsm : s'.fsm = .commit)
    (hus : s'.outNext.toList.take s'.nNext.toNat = us) : DecodesWithin 2 s (.success us) := by
  have hat : DecodeAt .commit s' := h.of_hidden hidden hfsm
  refine .first h.busy harrow hidden (.last hat.busy (s' := commitDecode us s') ?_ rfl)
  simp only [arrow, hat.fsm, arrowCommit, hat.op, hus]
  rfl

/-- DEC_UTF8: one arrow for the deserialiser, and the commit (43 R209, R214). -/
theorem DecodeAt.decodes_utf8 (h : DecodeAt .decUtf8 s) :
    DecodesWithin 2 s (bytesResult (s.bytes.toList.take (hdrLen s.hdr).toNat)) := by
  have harrow : arrow s = arrowDecUtf8 s := by rw [arrow, h.fsm]
  unfold arrowDecUtf8 at harrow
  cases hus : utf8Deserialise (s.bytes.toList.take (hdrLen s.hdr).toNat) with
  | none =>
    simp only [hus] at harrow
    rw [bytesResult, hus]
    exact (DecodesWithin.last h.busy harrow rfl).mono (by decide)
  | some us =>
    have hlen : us.length ≤ 63 := (utf8Deserialise_length_le _ _ hus).trans (by simp)
    have hn : (BitVec.ofNat 7 us.length).toNat = us.length := by rw [BitVec.toNat_ofNat, Nat.mod_eq_of_lt (by omega)]
    simp only [hus] at harrow
    rw [bytesResult, hus]
    refine h.decodes_by_commit harrow rfl rfl ?_
    rw [hn, vectorOf_toList]
    refine List.ext_getElem (by simp [hlen]) fun k _ hk => ?_
    simp [List.getD, hk]

/-- DEC_UNPACK of an id 0 record, by induction on the bytes left: those taken stand in BYTES (43 R209, R214). -/
theorem DecodeAt.decodes_bytes (h : DecodeAt .decUnpack s) (hid : hdrId s.hdr = 0#4) {m : Nat}
    (hm : m ≤ (hdrLen s.hdr).toNat) (hi : s.i = BitVec.ofNat 6 m - 1) {out : List Nat}
    (hout : (s.bytes.toList.take (hdrLen s.hdr).toNat).drop m = out.map (BitVec.ofNat 8)) :
    DecodesWithin (m + 3) s (bytesResult ((unpackGroups 8 m s.acc out).map (BitVec.ofNat 8))) := by
  have hlen : (hdrLen s.hdr).toNat ≤ 63 := Nat.le_of_lt_succ (hdrLen s.hdr).isLt
  induction m generalizing s out with
  | zero =>
    have hat : DecodeAt .decUtf8 { countBytes s with fsm := .decUtf8 } := h.of_hidden rfl rfl
    rw [unpackGroups, ← hout]
    exact .first h.busy (arrow_decUnpack_done s h.fsm hid hi) rfl hat.decodes_utf8
  | succ m ih =>
    obtain ⟨hnat, hne, hpred⟩ := index_of_left (by omega) hi
    have harrow := arrow_decUnpack_byte s h.fsm hid hne
    rw [hnat] at harrow
    have hrest := ih
      (s := { s with
              bytes := s.bytes.setIfInBounds m (BitVec.ofNat 8 (s.acc % 2 ^ 8)), acc := s.acc / 2 ^ 8, i := s.i - 1 })
      (out := s.acc % 2 ^ 8 :: out) (h.of_hidden rfl h.fsm) hid (Nat.le_of_succ_le hm) hpred
      (by rw [List.map_cons, ← hout]; exact rest_setIfInBounds _ hm hlen _) hlen
    rw [unpackGroups_succ (by decide), Nat.add_right_comm]
    exact .first h.busy harrow rfl hrest

/-- One arrow of DEC_UNPACK under an alphabet other than UTF8: the character of the low group, or the end (43 R214). -/
theorem arrow_decUnpack_group (hfsm : s.fsm = .decUnpack) {a : Alphabet} (ha : a ≠ .utf8)
    (hid : alphabetOfId (hdrId s.hdr).toNat = some a) (hi : s.i ≠ indexDone) :
    arrow s =
      (groupUnit s.cfg a (s.acc % 2 ^ alphabetStep a)).elim (raiseFatal .errBadCode s) (emitUnit s a) := by
  have hgroup : brReadLowByte s.acc (alphabetMask a) = s.acc % 2 ^ alphabetStep a :=
    brReadLowByte_eq_mod (alphabetStep_le a) s.acc
  simp only [arrow, hfsm, arrowDecUnpack, hid, if_neg hi, arrowUnpackGroup, hgroup]
  obtain h | rfl | h := alphabet_cases a
  · exact absurd h ha
  · rw [groupUnit_latin1]
    rfl
  · rw [groupUnit_restricted s.cfg h]
    cases a with
    | utf8 | latin1 => exact absurd h (by decide)
    | _ => cases lutDec s.cfg _ _ <;> rfl

/-- DEC_UNPACK of the other alphabets, by induction on the groups left: the characters of those taken stand in the
pending output (43 R206, R208, R214). -/
theorem DecodeAt.decodes_units (h : DecodeAt .decUnpack s) {a : Alphabet} (ha : a ≠ .utf8)
    (hid : alphabetOfId (hdrId s.hdr).toNat = some a) {m : Nat} (hm : m ≤ (hdrLen s.hdr).toNat)
    (hi : s.i = BitVec.ofNat 6 m - 1) {out : List Nat}
    (hout : groupUnits s.cfg a out = some ((s.outNext.toList.take (hdrLen s.hdr).toNat).drop m)) :
    DecodesWithin (m + 2) s (unitsResult (groupUnits s.cfg a (unpackGroups (alphabetStep a) m s.acc out))) := by
  have hlen : (hdrLen s.hdr).toNat ≤ 63 := Nat.le_of_lt_succ (hdrLen s.hdr).isLt
  induction m generalizing s out with
  | zero =>
    have harrow : arrow s = { s with fsm := .commit, nNext := (hdrLen s.hdr).setWidth 7 } := by
      simp only [arrow, h.fsm, arrowDecUnpack, hid, if_pos (show s.i = indexDone from hi), if_neg ha]
    rw [unpackGroups, hout]
    refine h.decodes_by_commit harrow rfl rfl ?_
    rw [BitVec.toNat_setWidth_of_le (by decide)]
    rfl
  | succ m ih =>
    obtain ⟨hnat, hne, hpred⟩ := index_of_left (by omega) hi
    have harrow := arrow_decUnpack_group h.fsm ha hid hne
    rw [unpackGroups_succ (alphabetStep_le a)]
    cases hunit : groupUnit s.cfg a (s.acc % 2 ^ alphabetStep a) with
    | none =>
      have hnone : groupUnits s.cfg a
          (unpackGroups (alphabetStep a) m (s.acc / 2 ^ alphabetStep a) (s.acc % 2 ^ alphabetStep a :: out)) =
          none := by
        rw [unpackGroups_append, groupUnits_eq_none]
        exact ⟨_, by simp, hunit⟩
      rw [hunit] at harrow
      rw [hnone]
      exact (DecodesWithin.last h.busy harrow rfl).mono (by omega)
    | some u =>
      have hemit : emitUnit s a u =
          { s with outNext := s.outNext.setIfInBounds m u, acc := s.acc / 2 ^ alphabetStep a, i := s.i - 1 } := by
        rw [emitUnit, hnat, brShiftRight, Nat.shiftRight_eq_div_pow]
      rw [hunit, Option.elim_some, hemit] at harrow
      have hrest := ih
        (s := { s with outNext := s.outNext.setIfInBounds m u, acc := s.acc / 2 ^ alphabetStep a, i := s.i - 1 })
        (out := s.acc % 2 ^ alphabetStep a :: out) (h.of_hidden rfl h.fsm) hid (Nat.le_of_succ_le hm) hpred
        (by rw [groupUnits_cons, hunit, hout, rest_setIfInBounds _ hm hlen]; rfl) hlen
      rw [Nat.add_right_comm]
      exact .first h.busy harrow rfl hrest

/-- DEC_UNPACK from its start: every group of the record is left to take (43 R214). -/
theorem DecodeAt.decodes_unpack (h : DecodeAt .decUnpack s) {a : Alphabet}
    (hid : alphabetOfId (hdrId s.hdr).toNat = some a) (hi : s.i = hdrLen s.hdr - 1) :
    DecodesWithin ((hdrLen s.hdr).toNat + 3) s (decodePayload s.cfg a (hdrLen s.hdr).toNat s.acc) := by
  have hi' : s.i = BitVec.ofNat 6 (hdrLen s.hdr).toNat - 1 := by rw [hi, BitVec.ofNat_toNat, BitVec.setWidth_eq]
  have hnone {α : Type} (v : Vector α 63) : (v.toList.take (hdrLen s.hdr).toNat).drop (hdrLen s.hdr).toNat = [] :=
    List.drop_eq_nil_of_le (by simp)
  by_cases ha : a = .utf8
  · subst ha
    have hid0 : hdrId s.hdr = 0#4 := BitVec.eq_of_toNat_eq (alphabetId_of_alphabetOfId _ _ hid).symm
    rw [decodePayload_utf8]
    exact h.decodes_bytes hid0 (Nat.le_refl _) hi' (hnone s.bytes)
  · rw [decodePayload_units s.cfg ha]
    exact (h.decodes_units ha hid (Nat.le_refl _) hi' (by rw [hnone s.outNext]; rfl)).mono (by omega)

/-- DEC_CHECK (43 R214, R216): the whole of DECODE from its start. -/
theorem decodes_decCheck (hfsm : s.fsm = .decCheck) (hop : s.op = 2) (busy : s.status.busy = true) :
    DecodesWithin 67 s (dec s.cfg s.hdr (payloadValue s)) := by
  have hat : DecodeAt .decCheck s := ⟨hfsm, hop, busy⟩
  have hlen : (hdrLen s.hdr).toNat ≤ 63 := Nat.le_of_lt_succ (hdrLen s.hdr).isLt
  have harrow : arrow s = arrowDecCheck s := by rw [arrow, hfsm]
  unfold arrowDecCheck at harrow
  unfold dec
  by_cases htag : hdrTag s.hdr ≠ 0b10
  · rw [if_pos htag] at harrow ⊢
    exact (DecodesWithin.last busy harrow rfl).mono (by decide)
  rw [if_neg htag] at harrow ⊢
  by_cases hzero : brReadAll (payloadValue s) (2 ^ s.cfg.p - 1) = 0
  · rw [if_pos hzero] at harrow ⊢
    exact (hat.decodes_by_commit harrow rfl rfl rfl).mono (by decide)
  rw [if_neg hzero] at harrow ⊢
  cases hid : alphabetOfId (hdrId s.hdr).toNat with
  | none =>
    simp only [hid] at harrow ⊢
    exact (DecodesWithin.last busy harrow rfl).mono (by decide)
  | some a =>
    simp only [hid] at harrow ⊢
    by_cases hlong : maxLength s.cfg a < (hdrLen s.hdr).toNat
    · rw [if_pos hlong] at harrow ⊢
      exact (DecodesWithin.last busy harrow rfl).mono (by decide)
    · rw [if_neg hlong] at harrow ⊢
      have hrun := DecodeAt.decodes_unpack
        (s := { s with fsm := .decUnpack, acc := payloadValue s, i := hdrLen s.hdr - 1 })
        (hat.of_hidden rfl rfl) hid rfl
      exact (DecodesWithin.first busy harrow rfl hrun).mono (show (hdrLen s.hdr).toNat + 3 + 1 ≤ 67 by omega)

end Arrows

/-- Settles O55: DECODE ends in the result of `dec`, at either grain. -/
theorem decodeArrowsReachTheCommandsResult : Obligations.DecodeArrowsReachTheCommandsResult := by
  intro s hfsm hop busy
  obtain ⟨n, hn, hvisible, hbusy⟩ := decodes_decCheck hfsm hop busy
  exact ⟨_, n, exec_decode_eq_dec s, Nat.lt_of_le_of_lt hn (by decide), hvisible, hbusy⟩

end Sys2Proof.Machine
end

section
/-! PROOFS. The UTF-8 serialiser and deserialiser against the scalar values they stand between: a string and a byte
string go with each other when both are written from one list of scalar values (spec 44). -/

namespace Sys2Proof.Machine

/-! ### Unpaired surrogates (44 R231) -/

/-- Some surrogate of the string has no partner. -/
def HasUnpaired (us : List CodeUnit) : Prop := ∃ k < us.length, unpairedAt us k = true

theorem not_isLowSurrogate_of_high {u : CodeUnit} (hu : isHighSurrogate u = true) : ¬isLowSurrogate u = true := by
  rw [isHighSurrogate_iff] at hu
  rw [isLowSurrogate_iff]
  omega

theorem not_hasUnpaired_nil : ¬HasUnpaired [] := fun ⟨_, hk, _⟩ => absurd hk (Nat.not_lt_zero _)

/-- The first unit is unpaired when it is a low surrogate, or a high one with no low one behind it. -/
theorem unpairedAt_zero (u : CodeUnit) (us : List CodeUnit) :
    unpairedAt (u :: us) 0 = (isHighSurrogate u && !isLowSurrogate (us.getD 0 0) || isLowSurrogate u) := by
  simp [unpairedAt]

/-- A unit in front that is no high surrogate is no partner to the one behind it. -/
theorem unpairedAt_succ {u : CodeUnit} (hu : ¬isHighSurrogate u = true) (us : List CodeUnit) (k : Nat) :
    unpairedAt (u :: us) (k + 1) = unpairedAt us k := by
  cases k with
  | zero => simp [unpairedAt, hu]
  | succ k => simp [unpairedAt]

/-- The unit behind a pair's first half is looked at apart from what stands in front of the pair. -/
theorem unpairedAt_add_two (u v : CodeUnit) (us : List CodeUnit) (k : Nat) :
    unpairedAt (u :: v :: us) (k + 2) = unpairedAt (v :: us) (k + 1) := by
  simp [unpairedAt]

theorem HasUnpaired.of_head {u : CodeUnit} {us : List CodeUnit} (h : unpairedAt (u :: us) 0 = true) :
    HasUnpaired (u :: us) := ⟨0, Nat.succ_pos _, h⟩

theorem hasUnpaired_cons {u : CodeUnit} (hhigh : ¬isHighSurrogate u = true) (hlow : ¬isLowSurrogate u = true)
    (us : List CodeUnit) : HasUnpaired (u :: us) ↔ HasUnpaired us := by
  constructor
  · rintro ⟨k, hk, hun⟩
    cases k with
    | zero => simp [unpairedAt_zero, hhigh, hlow] at hun
    | succ k => exact ⟨k, Nat.lt_of_succ_lt_succ hk, unpairedAt_succ hhigh us k ▸ hun⟩
  · rintro ⟨k, hk, hun⟩
    exact ⟨k + 1, Nat.succ_lt_succ hk, (unpairedAt_succ hhigh us k).trans hun⟩

theorem hasUnpaired_pair {u v : CodeUnit} (hu : isHighSurrogate u = true) (hv : isLowSurrogate v = true)
    (us : List CodeUnit) : HasUnpaired (u :: v :: us) ↔ HasUnpaired us := by
  have hlow := not_isLowSurrogate_of_high hu
  have hhigh : ¬isHighSurrogate v = true := fun h => not_isLowSurrogate_of_high h hv
  have hbehind (k : Nat) : unpairedAt (u :: v :: us) (k + 2) = unpairedAt us k :=
    (unpairedAt_add_two u v us k).trans (unpairedAt_succ hhigh us k)
  constructor
  · rintro ⟨k, hk, hun⟩
    match k with
    | 0 => simp [unpairedAt_zero, hv, hlow] at hun
    | 1 => simp [unpairedAt, hu, hhigh] at hun
    | k + 2 => exact ⟨k, Nat.lt_of_add_lt_add_right hk, hbehind k ▸ hun⟩
  · rintro ⟨k, hk, hun⟩
    exact ⟨k + 2, Nat.add_lt_add_right hk 2, (hbehind k).trans hun⟩

/-- Reading the scalar values fails at an unpaired surrogate and nowhere else (44 R230, R231). -/
theorem utf16Scalars_eq_none (us : List CodeUnit) : utf16Scalars us = none ↔ HasUnpaired us := by
  induction us using utf16Scalars.induct with
  | case1 => exact iff_of_false (by simp [utf16Scalars]) not_hasUnpaired_nil
  | case2 u hsurrogate =>
    have hbehind : isLowSurrogate (([] : List CodeUnit).getD 0 0) = false := rfl
    refine iff_of_true (by rw [utf16Scalars, if_pos hsurrogate]) (.of_head ?_)
    rw [unpairedAt_zero, hbehind, Bool.not_false, Bool.and_true]
    exact hsurrogate
  | case3 u hsurrogate =>
    have hread : utf16Scalars [u] ≠ none := by simp [utf16Scalars, hsurrogate]
    rw [Bool.or_eq_true, not_or] at hsurrogate
    obtain ⟨hhigh, hlow⟩ := hsurrogate
    exact iff_of_false hread fun h => not_hasUnpaired_nil ((hasUnpaired_cons hhigh hlow []).1 h)
  | case4 u v rest hu hv ih =>
    rw [utf16Scalars, if_pos hu, if_pos hv, Option.map_eq_none_iff, ih, hasUnpaired_pair hu hv]
  | case5 u v rest hu hv =>
    refine iff_of_true (by rw [utf16Scalars, if_pos hu, if_neg hv]) (.of_head ?_)
    simp [unpairedAt_zero, hu, hv]
  | case6 u v rest hu hlow =>
    refine iff_of_true (by rw [utf16Scalars, if_neg hu, if_pos hlow]) (.of_head ?_)
    simp [unpairedAt_zero, hlow]
  | case7 u v rest hu hlow ih =>
    rw [utf16Scalars, if_neg hu, if_neg hlow, Option.map_eq_none_iff, ih, hasUnpaired_cons hu hlow]

/-- Settles O52: only reading the scalar values can fail. -/
theorem serialiserFailsOnUnpairedSurrogates : Obligations.SerialiserFailsOnUnpairedSurrogates := by
  intro us
  rw [utf8Serialise, Option.map_eq_none_iff]
  exact utf16Scalars_eq_none us

/-! ### The scalar values of a string (44 R230, R236) -/

/-- A unit that is no surrogate is read as one scalar value, whatever follows. -/
theorem utf16Scalars_cons {u : CodeUnit} (hhigh : ¬isHighSurrogate u = true) (hlow : ¬isLowSurrogate u = true)
    (us : List CodeUnit) : utf16Scalars (u :: us) = (utf16Scalars us).map (u.toNat :: ·) := by
  cases us with
  | nil => simp [utf16Scalars, hhigh, hlow]
  | cons v us => rw [utf16Scalars, if_neg hhigh, if_neg hlow]

/-- A pair of surrogates is read as one scalar value. -/
theorem utf16Scalars_pair {u v : CodeUnit} (hu : isHighSurrogate u = true) (hv : isLowSurrogate v = true)
    (us : List CodeUnit) : utf16Scalars (u :: v :: us) = (utf16Scalars us).map (pairScalar u v :: ·) := by
  rw [utf16Scalars, if_pos hu, if_pos hv]

/-- A scalar value below 0x10000 is one code unit, which is no surrogate. -/
theorem utf16OfScalar_bmp {cp : Nat} (h : IsScalar cp) (hcp : cp ≤ 0xFFFF) :
    ∃ u, utf16OfScalar cp = [u] ∧ ¬isHighSurrogate u = true ∧ ¬isLowSurrogate u = true ∧ u.toNat = cp := by
  unfold IsScalar at h
  have hnat : (BitVec.ofNat 16 cp).toNat = cp := Nat.mod_eq_of_lt (by omega)
  refine ⟨BitVec.ofNat 16 cp, if_pos hcp, ?_, ?_, hnat⟩
  · rw [isHighSurrogate_iff, hnat]
    omega
  · rw [isLowSurrogate_iff, hnat]
    omega

/-- A scalar value from 0x10000 up is a pair of surrogates (44 R236). -/
theorem utf16OfScalar_supplementary {cp : Nat} (h : IsScalar cp) (hcp : ¬cp ≤ 0xFFFF) :
    ∃ u v, utf16OfScalar cp = [u, v] ∧ isHighSurrogate u = true ∧ isLowSurrogate v = true ∧ pairScalar u v = cp := by
  unfold IsScalar at h
  have hhigh : (BitVec.ofNat 16 (0xD800 + bitsOf (cp - 0x10000) 19 10)).toNat = 0xD800 + (cp - 0x10000) / 1024 := by
    rw [BitVec.toNat_ofNat, bitsOf]
    omega
  have hlow : (BitVec.ofNat 16 (0xDC00 + bitsOf (cp - 0x10000) 9 0)).toNat = 0xDC00 + (cp - 0x10000) % 1024 := by
    rw [BitVec.toNat_ofNat, bitsOf]
    omega
  refine ⟨_, _, by rw [utf16OfScalar, if_neg hcp], ?_, ?_, ?_⟩
  · rw [isHighSurrogate_iff, hhigh]
    omega
  · rw [isLowSurrogate_iff, hlow]
    omega
  · unfold pairScalar
    omega

/-- The code units of a scalar value in front of a string are read as that value. -/
theorem utf16Scalars_append {cp : Nat} (h : IsScalar cp) (us : List CodeUnit) :
    utf16Scalars (utf16OfScalar cp ++ us) = (utf16Scalars us).map (cp :: ·) := by
  by_cases hcp : cp ≤ 0xFFFF
  · obtain ⟨u, hunit, hhigh, hlow, rfl⟩ := utf16OfScalar_bmp h hcp
    rw [hunit]
    exact utf16Scalars_cons hhigh hlow us
  · obtain ⟨u, v, hunits, hhigh, hlow, rfl⟩ := utf16OfScalar_supplementary h hcp
    rw [hunits]
    exact utf16Scalars_pair hhigh hlow us

theorem utf16Scalars_flatten {cps : List Nat} (h : ∀ cp ∈ cps, IsScalar cp) :
    utf16Scalars (cps.map utf16OfScalar).flatten = some cps := by
  induction cps with
  | nil => rfl
  | cons cp cps ih =>
    obtain ⟨hcp, hcps⟩ := List.forall_mem_cons.1 h
    rw [List.map_cons, List.flatten_cons, utf16Scalars_append hcp, ih hcps]
    rfl

/-! ### One scalar value from its bytes (44 R234, R235) -/

/-- A continuation byte that was read is there, and lies in its range. -/
theorem utf8Conts_cons_eq_some {lo hi cp x : Nat} {rs : List (Nat × Nat)} {bs : List Byte}
    (h : utf8Conts ((lo, hi) :: rs) cp bs = some x) :
    ∃ b bs', bs = b :: bs' ∧ (lo ≤ b.toNat ∧ b.toNat ≤ hi) ∧
      utf8Conts rs (cp * 2 ^ 6 + b.toNat % 2 ^ 6) bs' = some x := by
  cases bs with
  | nil => cases h
  | cons b bs =>
    rw [utf8Conts] at h
    split at h
    · next hb => exact ⟨b, bs, rfl, of_decide_eq_true hb, h⟩
    · cases h

theorem ofNat_eq_of_toNat {b : Byte} {x : Nat} (h : x = b.toNat) : BitVec.ofNat 8 x = b := by
  rw [h, BitVec.ofNat_toNat, BitVec.setWidth_eq]

section Rows

/-! What a row of 44 R235 accepts is what the serialiser writes. `hleast` and `hscalar` are about the least and the
greatest value of the row: no shorter form stands for the same value, and no surrogate is among them. -/

variable {b : Byte} {bs : List Byte} {cp lo hi lo' hi' : Nat}

theorem utf8OfScalar_of_row_one (hb : inByteRange b (0x00, 0x7F) = true)
    (h : utf8Conts [] (utf8LeadBits b 0) bs = some cp) : IsScalar cp ∧ utf8OfScalar cp ++ bs = b :: bs := by
  have hlead : 0x00 ≤ b.toNat ∧ b.toNat ≤ 0x7F := of_decide_eq_true hb
  obtain rfl : b.toNat = cp := Option.some.inj h
  refine ⟨.inl (by omega), ?_⟩
  rw [utf8OfScalar_one hlead.2, ofNat_eq_of_toNat rfl, List.singleton_append]

theorem utf8OfScalar_of_row_two (hb : inByteRange b (0xC2, 0xDF) = true)
    (h : utf8Conts [(0x80, 0xBF)] (utf8LeadBits b 1) bs = some cp) :
    IsScalar cp ∧ utf8OfScalar cp ++ bs.drop 1 = b :: bs := by
  have hlead : 0xC2 ≤ b.toNat ∧ b.toNat ≤ 0xDF := of_decide_eq_true hb
  obtain ⟨b₁, rest, rfl, hb₁, hcp⟩ := utf8Conts_cons_eq_some h
  obtain rfl : b.toNat % 2 ^ 5 * 2 ^ 6 + b₁.toNat % 2 ^ 6 = cp := Option.some.inj hcp
  refine ⟨.inl (by omega), ?_⟩
  rw [utf8OfScalar_two (by omega) (by omega), ofNat_eq_of_toNat (b := b) (by omega),
    ofNat_eq_of_toNat (b := b₁) (by omega)]
  rfl

theorem utf8OfScalar_of_row_three (hb : inByteRange b (lo, hi) = true)
    (h : utf8Conts [(lo', hi'), (0x80, 0xBF)] (utf8LeadBits b 2) bs = some cp)
    (hlead : 0xE0 ≤ lo ∧ hi ≤ 0xEF) (hsecond : 0x80 ≤ lo' ∧ hi' ≤ 0xBF)
    (hleast : 0x800 ≤ (lo - 0xE0) * 2 ^ 12 + (lo' - 0x80) * 2 ^ 6)
    (hscalar : (hi - 0xE0) * 2 ^ 12 + (hi' - 0x80) * 2 ^ 6 + 0x3F < 0xD800 ∨
      0xE000 ≤ (lo - 0xE0) * 2 ^ 12 + (lo' - 0x80) * 2 ^ 6) :
    IsScalar cp ∧ utf8OfScalar cp ++ bs.drop 2 = b :: bs := by
  have hrange : lo ≤ b.toNat ∧ b.toNat ≤ hi := of_decide_eq_true hb
  obtain ⟨b₁, _, rfl, hb₁, hconts⟩ := utf8Conts_cons_eq_some h
  obtain ⟨b₂, rest, rfl, hb₂, hcp⟩ := utf8Conts_cons_eq_some hconts
  obtain rfl : (b.toNat % 2 ^ 4 * 2 ^ 6 + b₁.toNat % 2 ^ 6) * 2 ^ 6 + b₂.toNat % 2 ^ 6 = cp := Option.some.inj hcp
  refine ⟨by unfold IsScalar; omega, ?_⟩
  rw [utf8OfScalar_three (by omega) (by omega), ofNat_eq_of_toNat (b := b) (by omega),
    ofNat_eq_of_toNat (b := b₁) (by omega), ofNat_eq_of_toNat (b := b₂) (by omega)]
  rfl

theorem utf8OfScalar_of_row_four (hb : inByteRange b (lo, hi) = true)
    (h : utf8Conts [(lo', hi'), (0x80, 0xBF), (0x80, 0xBF)] (utf8LeadBits b 3) bs = some cp)
    (hlead : 0xF0 ≤ lo ∧ hi ≤ 0xF4) (hsecond : 0x80 ≤ lo' ∧ hi' ≤ 0xBF)
    (hleast : 0x10000 ≤ (lo - 0xF0) * 2 ^ 18 + (lo' - 0x80) * 2 ^ 12)
    (hscalar : (hi - 0xF0) * 2 ^ 18 + (hi' - 0x80) * 2 ^ 12 + 0xFFF < 0x110000) :
    IsScalar cp ∧ utf8OfScalar cp ++ bs.drop 3 = b :: bs := by
  have hrange : lo ≤ b.toNat ∧ b.toNat ≤ hi := of_decide_eq_true hb
  obtain ⟨b₁, _, rfl, hb₁, hconts⟩ := utf8Conts_cons_eq_some h
  obtain ⟨b₂, _, rfl, hb₂, hconts⟩ := utf8Conts_cons_eq_some hconts
  obtain ⟨b₃, rest, rfl, hb₃, hcp⟩ := utf8Conts_cons_eq_some hconts
  obtain rfl : ((b.toNat % 2 ^ 3 * 2 ^ 6 + b₁.toNat % 2 ^ 6) * 2 ^ 6 + b₂.toNat % 2 ^ 6) * 2 ^ 6 +
      b₃.toNat % 2 ^ 6 = cp := Option.some.inj hcp
  refine ⟨.inr (by omega), ?_⟩
  rw [utf8OfScalar_four (by omega) (by omega), ofNat_eq_of_toNat (b := b) (by omega),
    ofNat_eq_of_toNat (b := b₁) (by omega), ofNat_eq_of_toNat (b := b₂) (by omega),
    ofNat_eq_of_toNat (b := b₃) (by omega)]
  rfl

end Rows

/-- What the deserialiser reads from the front is a scalar value, and the bytes it used are the serialiser's
(44 R232, R235). -/
theorem utf8Scalar_spec {bs : List Byte} {cp used : Nat} (h : utf8Scalar bs = some (cp, used)) :
    IsScalar cp ∧ utf8OfScalar cp ++ bs.drop used = bs := by
  cases bs with
  | nil => cases h
  | cons b bs =>
    rw [utf8Scalar] at h
    split at h
    · cases h
    · next r hfind =>
      obtain ⟨_, hconts, hpair⟩ := Option.map_eq_some_iff.1 h
      cases hpair
      have hlead := List.find?_some hfind
      have hr := List.mem_of_find?_eq_some hfind
      simp only [utf8Rows, List.mem_cons, List.not_mem_nil, or_false] at hr
      obtain rfl | rfl | rfl | rfl | rfl | rfl | rfl | rfl | rfl := hr
      · exact utf8OfScalar_of_row_one hlead hconts
      · exact utf8OfScalar_of_row_two hlead hconts
      · exact utf8OfScalar_of_row_three hlead hconts (by decide) (by decide) (by decide) (by decide)
      · exact utf8OfScalar_of_row_three hlead hconts (by decide) (by decide) (by decide) (by decide)
      · exact utf8OfScalar_of_row_three hlead hconts (by decide) (by decide) (by decide) (by decide)
      · exact utf8OfScalar_of_row_three hlead hconts (by decide) (by decide) (by decide) (by decide)
      · exact utf8OfScalar_of_row_four hlead hconts (by decide) (by decide) (by decide) (by decide)
      · exact utf8OfScalar_of_row_four hlead hconts (by decide) (by decide) (by decide) (by decide)
      · exact utf8OfScalar_of_row_four hlead hconts (by decide) (by decide) (by decide) (by decide)

/-! ### Strings and byte strings of the same scalar values (44 R237) -/

/-- The string and the byte string are both written from one list of scalar values. -/
def SameScalars (us : List CodeUnit) (bs : List Byte) : Prop :=
  ∃ cps : List Nat, (∀ cp ∈ cps, IsScalar cp) ∧ (cps.map utf16OfScalar).flatten = us ∧
    (cps.map utf8OfScalar).flatten = bs

theorem SameScalars.nil : SameScalars [] [] := ⟨[], fun _ h => absurd h List.not_mem_nil, rfl, rfl⟩

theorem SameScalars.scalar {cp : Nat} (h : IsScalar cp) : SameScalars (utf16OfScalar cp) (utf8OfScalar cp) :=
  ⟨[cp], List.forall_mem_singleton.2 h, List.append_nil _, List.append_nil _⟩

theorem SameScalars.append {us vs : List CodeUnit} {bs cs : List Byte} (h : SameScalars us bs)
    (h' : SameScalars vs cs) : SameScalars (us ++ vs) (bs ++ cs) := by
  obtain ⟨cps, hcps, rfl, rfl⟩ := h
  obtain ⟨cps', hcps', rfl, rfl⟩ := h'
  refine ⟨cps ++ cps', fun cp hcp => (List.mem_append.1 hcp).elim (hcps cp) (hcps' cp), ?_, ?_⟩
  · rw [List.map_append, List.flatten_append]
  · rw [List.map_append, List.flatten_append]

theorem utf8Serialise_eq_some {us : List CodeUnit} {bs : List Byte} :
    utf8Serialise us = some bs ↔ SameScalars us bs := by
  constructor
  · intro h
    obtain ⟨cps, hcps, hbs⟩ := Option.map_eq_some_iff.1 h
    obtain ⟨hscalar, hunits⟩ := utf16Scalars_spec us cps hcps
    exact ⟨cps, hscalar, hunits, hbs⟩
  · rintro ⟨cps, hscalar, rfl, rfl⟩
    rw [utf8Serialise, utf16Scalars_flatten hscalar]
    rfl

/-- The deserialiser's loop, by induction on the scalars it may still read. -/
theorem sameScalars_of_utf8Loop {fuel : Nat} {bs : List Byte} {us : List CodeUnit} (h : utf8Loop fuel bs = some us) :
    SameScalars us bs := by
  induction fuel generalizing bs us with
  | zero =>
    cases bs with
    | nil => cases h; exact .nil
    | cons _ _ => cases h
  | succ fuel ih =>
    cases bs with
    | nil => cases h; exact .nil
    | cons b bs =>
      rw [utf8Loop] at h
      split at h
      · cases h
      · next cp used hread =>
        obtain ⟨rest, hrest, rfl⟩ := Option.map_eq_some_iff.1 h
        obtain ⟨hscalar, hbytes⟩ := utf8Scalar_spec hread
        rw [← hbytes]
        exact (SameScalars.scalar hscalar).append (ih hrest)

/-- Bytes that deserialise to a string are its serialisation (44 R237). -/
theorem utf8Serialise_utf8Deserialise {us : List CodeUnit} {bs : List Byte} (h : utf8Deserialise bs = some us) :
    utf8Serialise us = some bs := utf8Serialise_eq_some.2 (sameScalars_of_utf8Loop h)

/-! ### The bytes of one scalar value (44 R232) -/

/-- Fixed marker bits over a field, as the sum that the model writes for it. -/
theorem toNat_append_extractLsb' {m n w : Nat} (p : BitVec m) (x : BitVec w) (start : Nat) :
    (p ++ x.extractLsb' start n).toNat = p.toNat * 2 ^ n + x.toNat / 2 ^ start % 2 ^ n := by
  rw [BitVec.toNat_append, BitVec.extractLsb'_toNat, Nat.shiftRight_eq_div_pow,
    ← Nat.shiftLeft_add_eq_or_of_lt (Nat.mod_lt _ (Nat.two_pow_pos n)), Nat.shiftLeft_eq]

/-- A byte of a UTF-8 sequence: its marker, ones and a zero, over the bits of a scalar value from `start` up. -/
theorem ofNat_eq_marker_append {m n w x : Nat} (p : BitVec m) (v : BitVec w) (start : Nat)
    (hx : x = p.toNat * 2 ^ n + v.toNat / 2 ^ start % 2 ^ n) :
    BitVec.ofNat (m + n) x = p ++ v.extractLsb' start n := by
  rw [hx, ← toNat_append_extractLsb', BitVec.ofNat_toNat, BitVec.setWidth_eq]

theorem utf8Serialise_unit {u : CodeUnit} (hu : ¬(0xD800 ≤ u.toNat ∧ u.toNat ≤ 0xDFFF)) :
    utf8Serialise [u] = some (utf8OfScalar u.toNat) := by
  have hlt := u.isLt
  have hscalar : IsScalar u.toNat := by
    unfold IsScalar
    omega
  have h := SameScalars.scalar hscalar
  rw [utf16OfScalar_toNat] at h
  exact utf8Serialise_eq_some.2 h

theorem utf8Serialise_pair {u v : CodeUnit} (hu : isHighSurrogate u = true) (hv : isLowSurrogate v = true) :
    utf8Serialise [u, v] = some (utf8OfScalar (pairScalar u v)) := by
  have h := SameScalars.scalar (isScalar_pairScalar hu hv)
  rw [utf16OfScalar_pairScalar hu hv] at h
  exact utf8Serialise_eq_some.2 h

theorem utf8Serialise_unit_one {u : CodeUnit} (hu : u.toNat ≤ 0x7F) : utf8Serialise [u] = some [u.setWidth 8] := by
  rw [utf8Serialise_unit (by omega), utf8OfScalar_one hu, BitVec.ofNat_toNat]

theorem utf8Serialise_unit_two {u : CodeUnit} (hlo : 0x80 ≤ u.toNat) (hhi : u.toNat ≤ 0x7FF) :
    utf8Serialise [u] = some [0b110#3 ++ u.extractLsb' 6 5, 0b10#2 ++ u.extractLsb' 0 6] := by
  rw [utf8Serialise_unit (by omega), utf8OfScalar_two hlo hhi]
  have h₀ := ofNat_eq_marker_append (n := 5) (x := 0xC0 + u.toNat / 64) 0b110#3 u 6 (by simp; omega)
  have h₁ := ofNat_eq_marker_append (n := 6) (x := 0x80 + u.toNat % 64) 0b10#2 u 0 (by simp)
  rw [h₀, h₁]

theorem utf8Serialise_unit_three {u : CodeUnit} (hlo : 0x800 ≤ u.toNat)
    (hu : ¬(0xD800 ≤ u.toNat ∧ u.toNat ≤ 0xDFFF)) :
    utf8Serialise [u] =
      some [0b1110#4 ++ u.extractLsb' 12 4, 0b10#2 ++ u.extractLsb' 6 6, 0b10#2 ++ u.extractLsb' 0 6] := by
  have hlt := u.isLt
  rw [utf8Serialise_unit hu, utf8OfScalar_three hlo (by omega)]
  have h₀ := ofNat_eq_marker_append (n := 4) (x := 0xE0 + u.toNat / 4096) 0b1110#4 u 12 (by simp; omega)
  have h₁ := ofNat_eq_marker_append (n := 6) (x := 0x80 + u.toNat / 64 % 64) 0b10#2 u 6 (by simp)
  have h₂ := ofNat_eq_marker_append (n := 6) (x := 0x80 + u.toNat % 64) 0b10#2 u 0 (by simp)
  rw [h₀, h₁, h₂]

theorem utf8Serialise_pair_four {u v : CodeUnit} {cp : BitVec 21} (hu : isHighSurrogate u = true)
    (hv : isLowSurrogate v = true) (hcp : cp = BitVec.ofNat 21 (pairScalar u v)) :
    utf8Serialise [u, v] =
      some [0b11110#5 ++ cp.extractLsb' 18 3, 0b10#2 ++ cp.extractLsb' 12 6, 0b10#2 ++ cp.extractLsb' 6 6,
        0b10#2 ++ cp.extractLsb' 0 6] := by
  have hrange : 0x10000 ≤ pairScalar u v ∧ pairScalar u v < 0x110000 := by
    rw [isHighSurrogate_iff] at hu
    rw [isLowSurrogate_iff] at hv
    unfold pairScalar
    omega
  have hnat : pairScalar u v = cp.toNat := by
    rw [hcp, BitVec.toNat_ofNat]
    omega
  rw [hnat] at hrange
  rw [utf8Serialise_pair hu hv, hnat, utf8OfScalar_four hrange.1 hrange.2]
  have h₀ := ofNat_eq_marker_append (n := 3) (x := 0xF0 + cp.toNat / 262144) 0b11110#5 cp 18 (by simp; omega)
  have h₁ := ofNat_eq_marker_append (n := 6) (x := 0x80 + cp.toNat / 4096 % 64) 0b10#2 cp 12 (by simp)
  have h₂ := ofNat_eq_marker_append (n := 6) (x := 0x80 + cp.toNat / 64 % 64) 0b10#2 cp 6 (by simp)
  have h₃ := ofNat_eq_marker_append (n := 6) (x := 0x80 + cp.toNat % 64) 0b10#2 cp 0 (by simp)
  rw [h₀, h₁, h₂, h₃]

/-! ### The byte count (44 R233) -/

theorem utf8OfScalar_length (cp : Nat) :
    (utf8OfScalar cp).length = if cp ≤ 0x7F then 1 else if cp ≤ 0x7FF then 2 else if cp ≤ 0xFFFF then 3 else 4 := by
  unfold utf8OfScalar
  simp only [apply_ite List.length]
  rfl

/-- A scalar value above 0x7F has more bytes than code units. -/
theorem utf16OfScalar_length_lt {cp : Nat} (h : 0x7F < cp) : (utf16OfScalar cp).length < (utf8OfScalar cp).length := by
  rw [utf16OfScalar_length, utf8OfScalar_length]
  split_ifs <;> omega

/-- A unit above 0xFF stands for no scalar value that fits one byte. -/
theorem lt_of_mem_utf16OfScalar {cp : Nat} {u : CodeUnit} (hu : u ∈ utf16OfScalar cp) (hwide : 0xFF < u.toNat) :
    0x7F < cp := by
  by_contra hcp
  rw [utf16OfScalar, if_pos (by omega), List.mem_singleton] at hu
  rw [hu, BitVec.toNat_ofNat] at hwide
  omega

theorem SameScalars.length_le {us : List CodeUnit} {bs : List Byte} (h : SameScalars us bs) :
    us.length ≤ bs.length :=
  utf8Deserialise_length_le bs us (utf8Deserialise_utf8Serialise (utf8Serialise_eq_some.2 h))

/-- The list of scalar values is cut at the one with the wide unit (44 R233). -/
theorem SameScalars.length_lt {us : List CodeUnit} {bs : List Byte} (h : SameScalars us bs)
    (hwide : ∃ u ∈ us, 0xFF < u.toNat) : us.length < bs.length := by
  obtain ⟨cps, hcps, rfl, rfl⟩ := h
  obtain ⟨u, hu, hgt⟩ := hwide
  obtain ⟨_, hunits, humem⟩ := List.mem_flatten.1 hu
  obtain ⟨cp, hcp, rfl⟩ := List.mem_map.1 hunits
  obtain ⟨before, behind, rfl⟩ := List.append_of_mem hcp
  obtain ⟨hbefore, hrest⟩ := List.forall_mem_append.1 hcps
  have hlt := utf16OfScalar_length_lt (lt_of_mem_utf16OfScalar humem hgt)
  have hle := SameScalars.length_le ⟨before, hbefore, rfl, rfl⟩
  have hle' := SameScalars.length_le ⟨behind, (List.forall_mem_cons.1 hrest).2, rfl, rfl⟩
  simp only [List.map_append, List.map_cons, List.flatten_append, List.flatten_cons, List.length_append]
  omega

/-! ### The statement -/

/-- Settles O53: the bytes by range, and the strings by their scalar values. -/
theorem utf8RoundTrips : Obligations.Utf8RoundTrips := by
  refine ⟨fun us hpaired => ?_, fun bs us => utf8Serialise_utf8Deserialise, fun us bs hbs hwide => ?_, rfl,
    fun u => utf8Serialise_unit_one, fun u => utf8Serialise_unit_two, fun u => utf8Serialise_unit_three,
    fun u v hu hu' hv hv' => ?_, fun us vs bs cs hbs hcs => ?_⟩
  · obtain ⟨bs, hbs⟩ : ∃ bs, utf8Serialise us = some bs := by
      refine Option.ne_none_iff_exists'.1 fun hnone => ?_
      obtain ⟨k, hk, hun⟩ := (serialiserFailsOnUnpairedSurrogates us).1 hnone
      exact Bool.false_ne_true ((hpaired k hk).symm.trans hun)
    exact ⟨bs, hbs, utf8Deserialise_utf8Serialise hbs⟩
  · exact ⟨(utf8Serialise_eq_some.1 hbs).length_lt hwide, exists_byte_ne_zero hbs hwide⟩
  · exact utf8Serialise_pair_four (isHighSurrogate_iff.2 ⟨hu, hu'⟩) (isLowSurrogate_iff.2 ⟨hv, hv'⟩) rfl
  · exact utf8Serialise_eq_some.2 ((utf8Serialise_eq_some.1 hbs).append (utf8Serialise_eq_some.1 hcs))

end Sys2Proof.Machine
end

section
/-! PROOFS. Exceptions: the two ends of a command in STATUS, host-protocol errors, the FAULT state, and what a command
leaves unchanged (60 R251 to R264). -/

namespace Sys2Proof.Machine

/-! ### The ends of a command (60 R251, R252, R254) -/

/-- Settles O20: each end is a record update, and `finish` differs by its code only. -/
theorem finishAndFatalWriteStatus : Obligations.FinishAndFatalWriteStatus := fun _ =>
  ⟨rfl, rfl, rfl, fun _ _ => rfl, fun _ => rfl, fun _ => rfl⟩

/-- After a normal end only DONE, OK, RESULT and the two fields not written can be set. -/
theorem statusWord_statusFinished (r : ResultCode) (st : Status) (hovr : st.ovr = false) (hfault : st.fault = false) :
    statusWord (statusFinished r st) =
      BitVec.ofNat 32 (2 + 4 * (decide (r = .success)).toNat + 16 * (resultBits r).toNat) := by
  simp [statusWord, hovr, hfault]

/-- After a fatal end DONE, FAULT and RESULT are set, and OVR as it was. -/
theorem statusWord_statusFatal (c : ResultCode) (st : Status) (hovr : st.ovr = false) :
    statusWord (statusFatal c st) = BitVec.ofNat 32 (10 + 16 * (resultBits c).toNat) := by
  simp [statusWord, hovr]

theorem statusWord_statusStarted (st : Status) (hfault : st.fault = false) : statusWord (statusStarted st) = 1#32 := by
  simp [statusWord, hfault]

/-- Settles O21: the word of each kind of end, at each code. -/
theorem statusWordAfterEachResult : Obligations.StatusWordAfterEachResult := by
  intro st hovr hfault
  have finished (r : ResultCode) := statusWord_statusFinished r st hovr hfault
  have fatal (c : ResultCode) := statusWord_statusFatal c st hovr
  exact ⟨finished .success, finished .nofit, finished .foreign, fatal .errContract, fatal .errBadId,
    fatal .errBadUtf16, fatal .errBadUtf8, fatal .errBadCode, fatal .errBadLength, fatal .errBadCmd,
    statusWord_statusStarted st hfault⟩

/-! ### Reserved bits of a write (10 R48) -/

/-- The bits above a field of `n` low bits are not stored. -/
theorem setWidth_and_low (v : Word) (n : Nat) (hn : n ≤ 32) :
    (v &&& BitVec.ofNat 32 (2 ^ n - 1)).setWidth n = v.setWidth n := by
  rw [← setWidth_setWidth_eq_and v n hn, BitVec.setWidth_setWidth_of_le _ hn, BitVec.setWidth_eq]

/-- OP is the low two bits of a CMD word (10 R21). -/
theorem op_and_three (v : Word) : field (v &&& 3#32) 0 2 = field v 0 2 := by
  simp only [field, ← BitVec.setWidth_eq_extractLsb' (show 2 ≤ 32 by decide)]
  exact setWidth_and_low v 2 (by decide)

/-- A write to CMD depends on OP alone (30 R82). -/
theorem hostWrite_cmd_and_three (v : Word) (s : State) : hostWrite .cmd (v &&& 3#32) s = hostWrite .cmd v s := by
  have hdecode : decodeCmd (v &&& 3#32) = decodeCmd v := by rw [decodeCmd, decodeCmd, op_and_three]
  simp only [hostWrite, if_pos, op_and_three, hdecode]

/-! ### Accesses that are refused (20 R64) -/

theorem portOffset_refused (c : Config) (off size : Nat) (hoff : off < 4096) (hbad : size ≠ 4 ∨ off % 4 ≠ 0) :
    ∃ r, portOffset c (c.base + off) size = .refused r := by
  have hwindow : ¬(c.base + off < c.base ∨ c.base + 4096 ≤ c.base + off) := by omega
  rw [portOffset, if_neg hwindow, Nat.add_sub_cancel_left]
  by_cases hsize : size = 4
  · rw [if_neg (not_not.2 hsize), if_pos (hbad.resolve_left (not_not.2 hsize))]
    exact ⟨_, rfl⟩
  · rw [if_pos hsize]
    exact ⟨_, rfl⟩

/-- A refused offset refuses the step, with reset asserted or not. -/
theorem step_of_refused (s : State) (a : Access) (rest : List Event) (r : Refusal) (hbus : s.bus = .host a :: rest)
    (h : accessOffset s.cfg a = .refused r) : step s = .refused r := by
  rw [step_of_bus_cons s _ rest hbus]
  simp only [eventStep, hostStep, h]

/-- Settles O9: the host port's writes and reads case by case, the masks of the registers, and the offsets refused. -/
theorem hostProtocolErrors : Obligations.HostProtocolErrors := by
  refine ⟨?busy, fun s rest off hoff haligned released hbus _ => ?read, ?ignored, fun s v k => ?bits, ?refused⟩
  case busy =>
    intro s rest off v hoff haligned released hbus busy
    rw [step_write s rest off v hoff haligned hbus released]
    exact hostWrite_busy _ v _ busy
  case read => exact hostReadChangesNoRegister.1 s rest off hoff haligned released hbus
  case ignored =>
    intro s rest off v hoff haligned released hbus idle hreg
    rw [step_write s rest off v hoff haligned hbus released]
    obtain hr | hr | hr | ⟨_, hr⟩ | hr := hreg
    all_goals rw [hr]; exact hostWrite_reg _ v _ idle nofun
  case bits =>
    refine ⟨?_, ?_, ?_, ?_, (hostWrite_cmd_and_three v s).symm⟩
    · exact congrArg (fun x => { s with hdr := x }) (setWidth_and_low v 12 (by decide)).symm
    · exact congrArg (fun x => { s with inLen := x }) (setWidth_and_low v 16 (by decide)).symm
    · exact congrArg (fun x => { s with charIn := s.charIn.setIfInBounds k x }) (setWidth_and_low v 16 (by decide)).symm
    · simp only [writeReg, BitVec.and_assoc, BitVec.and_self]
  case refused =>
    intro s rest off size v hoff hbad hbus
    obtain ⟨r, hr⟩ := portOffset_refused s.cfg off size hoff hbad
    obtain hbus | hbus := hbus
    all_goals exact ⟨r, step_of_refused s _ rest r hbus hr⟩

/-! ### The FAULT state (60 R255, R261) -/

/-- The engine steps only while BUSY (70 R288 b). -/
theorem engineStep_idle {s : State} (idle : s.status.busy = false) : engineStep s = .next s := by
  simp [engineStep, idle]

theorem tickStep_idle {s : State} (idle : s.status.busy = false) : tickStep s = s := by
  simp [tickStep, idle]

/-- Agreement on the engine state and STATUS. -/
def SameEngine (s t : State) : Prop := t.fsm = s.fsm ∧ t.status = s.status

section Halted

variable {s t : State} (idle : s.status.busy = false) (fault : s.status.fault = true)
include idle fault

theorem hostWrite_halted {r : Reg} {v : Word} (h : hostWrite r v s = .next t) : SameEngine s t := by
  by_cases hr : r = .cmd
  · rw [hr, hostWrite_cmd_fault v s idle fault] at h
    cases h
    exact ⟨rfl, rfl⟩
  · rw [hostWrite_reg r v s idle hr] at h
    cases h
    exact ⟨writeReg_fsm s r v, writeReg_status s r v⟩

theorem hostStep_halted {a : Access} (h : hostStep a s = .next t) : SameEngine s t := by
  obtain ⟨off, _, ⟨_, rfl⟩ | ⟨_, rfl | ⟨v, hwrite⟩⟩⟩ := hostStep_next a s t h
  · exact ⟨rfl, rfl⟩
  · exact ⟨rfl, rfl⟩
  · exact hostWrite_halted idle fault hwrite

/-- Of all events only an asserted reset reaches a halted engine. -/
theorem eventStep_halted {e : Event} (h : eventStep e s = .next t) : e = .resetAssert ∨ SameEngine s t := by
  obtain ⟨he, _⟩ | ⟨_, rfl⟩ | ⟨_, rfl⟩ | ⟨_, a, _, ha⟩ | ⟨_, _, rfl⟩ | ⟨_, _, hengine⟩ | ⟨_, _, rfl⟩ :=
    eventStep_cases e s t h
  · exact .inl he
  · exact .inr ⟨rfl, rfl⟩
  · exact .inr ⟨rfl, rfl⟩
  · exact .inr (hostStep_halted idle fault ha)
  · rw [waitStep_idle s idle]
    exact .inr ⟨rfl, rfl⟩
  · rw [engineStep_idle idle] at hengine
    cases hengine
    exact .inr ⟨rfl, rfl⟩
  · rw [tickStep_idle idle]
    exact .inr ⟨rfl, rfl⟩

theorem step_halted (h : step s = .next t) : (∃ rest, s.bus = .resetAssert :: rest) ∨ SameEngine s t := by
  obtain ⟨_, _, rfl⟩ | ⟨_, _, hengine⟩ | ⟨e, rest, hbus, hevent⟩ := step_cases s t h
  · exact .inr ⟨rfl, rfl⟩
  · rw [engineStep_idle idle] at hengine
    cases hengine
    exact .inr ⟨rfl, rfl⟩
  · obtain rfl | hsame := eventStep_halted (s := { s with bus := rest }) idle fault hevent
    · exact .inl ⟨rest, hbus⟩
    · exact .inr hsame

end Halted

theorem step_tick (s : State) (rest : List Event) (hbus : s.bus = .tick :: rest) (released : s.inReset = false) :
    step s = .next (tickStep { s with bus := rest }) := by
  rw [step_of_bus_cons s _ rest hbus]
  simp [eventStep, released]

/-- Settles O13: the step lemma of the halted engine, and the step of each event that R255 names. -/
theorem faultStateIsLeftOnlyByReset : Obligations.FaultStateIsLeftOnlyByReset := by
  intro s hfsm fault idle
  refine ⟨fun t hstep => ?leave, fun released => ⟨?cmd, ?write, ?read, ?engine, ?quiet⟩⟩
  case leave =>
    exact (step_halted idle fault hstep).imp_right fun hsame => ⟨hsame.1.trans hfsm, hsame.2⟩
  case cmd =>
    intro rest v hbus
    rw [step_write_cmd s rest v hbus released]
    exact hostWrite_cmd_fault v _ idle fault
  case write =>
    intro rest off v hoff haligned hne hbus
    rw [step_write s rest off v hoff haligned hbus released]
    exact hostWrite_reg _ v _ idle (mt (regAt_eq_cmd off).1 hne)
  case read => exact fun rest off hoff haligned => hostReadChangesNoRegister.1 s rest off hoff haligned released
  case engine =>
    rintro rest (hbus | hbus)
    · rw [step_engine s rest hbus released]
      exact engineStep_idle idle
    · rw [step_tick s rest hbus released]
      exact congrArg _ (tickStep_idle idle)
  case quiet =>
    intro hbus
    rw [step_of_bus_nil s hbus released]
    exact engineStep_idle idle

/-! ### What a command leaves unchanged (60 R264) -/

/-- Only the commits write a result register, and they end in SUCCESS: after any other result STATUS and the engine state
alone differ. -/
theorem CommandEnd.sameVisible_of_failed {s t : State} (h : CommandEnd s t) (hresult : t.status.result ≠ 0) :
    SameVisible { s with status := t.status, fsm := t.fsm } t := by
  cases h with
  | normal | fatal => exact .of_eq rfl
  | encoded | decoded => exact absurd rfl hresult

theorem CommandEnd.ovr {s t : State} (h : CommandEnd s t) : t.status.ovr = s.status.ovr := by cases h <;> rfl

/-- The registers a host reads are visible. -/
theorem SameVisible.readReg_eq {s t : State} (h : SameVisible s t) (r : Reg) : readReg t r = readReg s r := by
  obtain ⟨hcfg, hstatus, hinLen, hhdr, houtLen, hpayload, hcharIn, hcharOut, -, -, -, -, -⟩ := h
  cases r <;> simp only [readReg, *]

/-- A byte reads the same when every register that can stand at its word does (20 R61, R63). -/
theorem readByte_congr {s t : State} {a : Nat}
    (h : ∀ r : Reg, r.InRange → regOffset r = a / 4 * 4 → readReg t r = readReg s r) : readByte t a = readByte s a := by
  obtain ⟨hrange, hoffset⟩ := regAt_standsAt (a / 4 * 4)
  refine congrArg (fun w => field w (8 * (a % 4)) 8) ?_
  by_cases hr : regAt (a / 4 * 4) = .reserved
  · rw [hr]; rfl
  · exact h _ hrange (hoffset (Nat.mul_mod_left _ _) hr)

theorem SameVisible.readByte_eq_of_failed {s t : State} (h : SameVisible { s with status := t.status, fsm := t.fsm } t)
    {a : Nat} (ha : a / 4 ≠ 1) : readByte t a = readByte s a :=
  readByte_congr fun r _ hoff => (h.readReg_eq r).trans <| by
    cases r with
    | status => simp only [regOffset] at hoff; omega
    | _ => rfl

/-- The bytes outside STATUS, HDR and PAYLOAD. -/
theorem SameVisible.readByte_eq_of_encoded {s t : State}
    (h : SameVisible { s with hdr := t.hdr, payload := t.payload, status := t.status, fsm := t.fsm } t) {a : Nat}
    (hstatus : a / 4 ≠ 1) (hhdr : a / 4 ≠ 4) (hpayload : ¬(16 ≤ a / 4 ∧ a / 4 < 32)) : readByte t a = readByte s a :=
  readByte_congr fun r hrange hoff => (h.readReg_eq r).trans <| by
    cases r with
    | status | hdr | payload => simp only [regOffset, Reg.InRange] at hoff hrange; omega
    | _ => rfl

/-- The bytes outside STATUS, OUT_LEN and CHAR_OUT. -/
theorem SameVisible.readByte_eq_of_decoded {s t : State}
    (h : SameVisible { s with outLen := t.outLen, charOut := t.charOut, status := t.status, fsm := t.fsm } t) {a : Nat}
    (hstatus : a / 4 ≠ 1) (houtLen : a / 4 ≠ 5) (hcharOut : ¬(128 ≤ a / 4 ∧ a / 4 < 192)) :
    readByte t a = readByte s a :=
  readByte_congr fun r hrange hoff => (h.readReg_eq r).trans <| by
    cases r with
    | status | outLen | charOut => simp only [regOffset, Reg.InRange] at hoff hrange; omega
    | _ => rfl

/-- Settles O36: ENCODE ends in a commit of HDR and PAYLOAD or in a result that writes neither. -/
theorem encodeFrame : Obligations.EncodeFrame := by
  intro s t hexec
  have hend := exec_encode_end s t hexec
  have hsuccess (hresult : t.status.result = 0) :
      SameVisible { s with hdr := t.hdr, payload := t.payload, status := t.status, fsm := t.fsm } t := by
    obtain ⟨a, n, acc, _, rfl⟩ := exec_encode_success hexec hresult
    exact .of_eq rfl
  refine ⟨hend.sameVisible_of_failed, hsuccess, fun a _ hstatus hwritten => ?_, hend.ovr⟩
  by_cases hresult : t.status.result = 0
  · exact (hsuccess hresult).readByte_eq_of_encoded hstatus (hwritten hresult).1 (hwritten hresult).2
  · exact (hend.sameVisible_of_failed hresult).readByte_eq_of_failed hstatus

/-- DECODE and every row, its ID field in range or not, do what `dec` says of some header. -/
theorem exec_decode_or_row_eq_dec {i : Instr} (hi : i = .decode ∨ formatOf i = .hdr) (s : State) :
    ∃ h, exec i s = .next (applyDecResult (dec s.cfg h (payloadValue s)) s) := by
  obtain rfl | hfmt := hi
  · exact ⟨s.hdr, exec_decode_eq_dec s⟩
  by_cases hwf : i.wellFormed = true
  · obtain ⟨h, hrow⟩ := HeaderRow.of_wellFormed i hwf hfmt
    exact ⟨h, hrow.exec_eq s⟩
  · cases i with
    | decBadId12to15 id len => exact ⟨_, congrArg _ (rowBadId_eq_dec 12#4 len s (by decide))⟩
    | _ => exact absurd rfl hwf

/-- A successful DECODE, or row, commits a string (43 R210). -/
theorem exec_decode_or_row_success {i : Instr} {s t : State} (hi : i = .decode ∨ formatOf i = .hdr)
    (hexec : exec i s = .next t) (hresult : t.status.result = 0) : ∃ us, t = commitDecode us s := by
  obtain ⟨h, hdec⟩ := exec_decode_or_row_eq_dec hi s
  obtain rfl := Host.Outcome.next.inj (hdec.symm.trans hexec)
  cases hr : dec s.cfg h (payloadValue s) with
  | success us => exact ⟨us, rfl⟩
  | foreign => rw [hr] at hresult; exact absurd (show resultBits .foreign = 0 from hresult) (by decide)
  | fatal c =>
    rw [hr] at hresult
    exact absurd hresult (resultBits_ne_zero_of_fatal c (resultBits_of_dec_fatal _ _ _ c hr))

/-- Settles O49: DECODE and its rows end in a commit of OUT_LEN and CHAR_OUT or in a result that writes neither. -/
theorem decodeFrame : Obligations.DecodeFrame := by
  intro i s t hi hexec
  have hend : CommandEnd s t := by
    obtain rfl | hfmt := hi
    · exact exec_decode_end s t hexec
    · exact exec_row_end i s t hfmt hexec
  have hsuccess (hresult : t.status.result = 0) :
      SameVisible { s with outLen := t.outLen, charOut := t.charOut, status := t.status, fsm := t.fsm } t := by
    obtain ⟨us, rfl⟩ := exec_decode_or_row_success hi hexec hresult
    exact .of_eq rfl
  refine ⟨hend.sameVisible_of_failed, hsuccess, fun a _ hstatus hwritten => ?_, hend.ovr⟩
  by_cases hresult : t.status.result = 0
  · exact (hsuccess hresult).readByte_eq_of_decoded hstatus (hwritten hresult).1 (hwritten hresult).2
  · exact (hend.sameVisible_of_failed hresult).readByte_eq_of_failed hstatus

end Sys2Proof.Machine
end

section
/-! PROOFS. The canonical host sequences (70 R289): the bus transactions of a command with its WAIT and RD STATUS, the
record of a Latin-1 string, and the two sequences apart and back to back. -/

namespace Sys2Proof.Machine

/-! ### A command of a script (30 R91, 70 R288) -/

/-- The write to CMD and the engine's turn right after it (70 R288). -/
theorem run_command_write (n : Nat) {s u : State} {v : Word} {rest : List Event}
    (hbus : s.bus = writeEvent s.cfg .cmd v :: .engine :: rest) (released : s.inReset = false)
    (idle : s.status.busy = false) (nofault : s.status.fault = false) (hop : field v 0 2 ≠ 0)
    (hturn : engineStep (startCommand (field v 0 2) { s with bus := rest }) = .next u) :
    Sys2Proof.core.run (n + 2) s = Sys2Proof.core.run n u := by
  have hwrite := (step_write_cmd s _ v hbus released).trans
    (hostWrite_start v { s with bus := .engine :: rest } idle nofault hop)
  have hengine := (step_engine (startCommand (field v 0 2) { s with bus := .engine :: rest }) rest rfl released).trans
    hturn
  rw [run_succ_of_step (n + 1) _ _ hwrite, run_succ_of_step n _ _ hengine]

/-- WAIT behind an ended command polls once (30 R91), and RD STATUS reads the same word. -/
theorem run_wait_status (n : Nat) {s : State} {rest : List Event}
    (hbus : s.bus = .wait :: readEvent s.cfg .status :: rest) (released : s.inReset = false)
    (idle : s.status.busy = false) :
    Sys2Proof.core.run (n + 2) s = Sys2Proof.core.run n
      { s with bus := rest, observed := statusWord s.status :: statusWord s.status :: s.observed } := by
  have hwait := step_wait_idle s _ hbus released idle
  have hread := step_read
    { s with bus := readEvent s.cfg .status :: rest, observed := statusWord s.status :: s.observed } rest
    (regOffset .status) (by decide) rfl rfl released
  rw [run_succ_of_step (n + 1) _ _ hwait, run_succ_of_step n _ _ hread]
  rfl

/-- The transactions of a CMD write with its WAIT and RD STATUS, and the engine's turn between them (70 R288, R289). -/
def commandEvents (c : Config) (v : Word) : List Event :=
  [writeEvent c .cmd v, .engine, .wait, readEvent c .status]

/-- From `s`, with BUSY and FAULT 0, a command has succeeded at `t`; WAIT and RD STATUS have each read 0x006, and `rest`
is still to come. -/
structure Succeeded (s : State) (rest : List Event) (t : State) : Prop where
  cfg : t.cfg = s.cfg
  released : t.inReset = false
  idle : t.status.busy = false
  nofault : t.status.fault = false
  word : readReg t .status = 0x006#32
  bus : t.bus = rest
  observed : t.observed = 0x006#32 :: 0x006#32 :: s.observed

/-- A command whose turn ends in SUCCESS, through the bus. -/
theorem run_successful_command (n : Nat) {s u : State} {v : Word} {rest : List Event}
    (hbus : s.bus = commandEvents s.cfg v ++ rest) (released : s.inReset = false) (idle : s.status.busy = false)
    (nofault : s.status.fault = false) (hop : field v 0 2 ≠ 0)
    (hturn : engineStep (startCommand (field v 0 2) { s with bus := .wait :: readEvent s.cfg .status :: rest }) =
      .next u)
    (hsuccess : u.status = statusFinished .success (statusStarted s.status)) :
    ∃ observed, Sys2Proof.core.run (n + 4) s = Sys2Proof.core.run n { u with bus := rest, observed := observed } ∧
      Succeeded s rest { u with bus := rest, observed := observed } := by
  have hfsm := (startFsm_cases _ hop).imp And.right (Or.imp And.right And.right)
  obtain ⟨u', hturn', hend⟩ := engineStep_start_end
    (startCommand (field v 0 2) { s with bus := .wait :: readEvent s.cfg .status :: rest }) rfl hfsm
  obtain rfl := Host.Outcome.next.inj (hturn'.symm.trans hturn)
  obtain ⟨hidle, -, -, hreset, hubus, hobserved⟩ := hend.observable
  have hword : statusWord u'.status = 0x006#32 := by
    rw [hsuccess, statusWord_statusFinished .success (statusStarted s.status) rfl nofault]
    rfl
  have hread := run_wait_status n (hubus.trans (by rw [hend.cfg]; rfl)) (hreset.trans released) hidle
  refine ⟨_, (run_command_write (n + 2) hbus released idle nofault hop hturn).trans hread,
    hend.cfg, hreset.trans released, hidle, ?_, hword, rfl, ?_⟩
  · exact (congrArg Status.fault hsuccess).trans nofault
  · rw [hword, hobserved]
    rfl

/-! ### The reference scheduling (70 R288) -/

/-- Register writes leave the engine no turn. -/
theorem referenceSchedule_writeEvents (c : Config) (ws : Writes) (hws : ∀ w ∈ ws, w.1.InRange ∧ w.1 ≠ .cmd)
    (es : List Event) :
    referenceSchedule c (writeEvents c ws ++ es) = writeEvents c ws ++ referenceSchedule c es := by
  induction ws with
  | nil => rfl
  | cons w ws ih =>
    obtain ⟨⟨hrange, hcmd⟩, hws⟩ := List.forall_mem_cons.1 hws
    have hoff : c.base + regOffset w.1 ≠ c.base := fun h => hcmd <| by
      rw [← regAt_regOffset w.1 hrange, regAt_eq_cmd]
      omega
    exact (if_neg hoff).trans (congrArg (writeEvent c w.1 w.2 :: ·) (ih hws))

theorem schedule_loadStr (c : Config) {us : List CodeUnit} (hle : us.length ≤ 64) (l : List Stmt) :
    referenceSchedule c (expandScript c (.loadStr us :: l)) =
      expandStmt c (.loadStr us) ++ referenceSchedule c (expandScript c l) := by
  rw [expandStmt_loadStr, ← referenceSchedule_writeEvents c _ (stringWrites_inRange us hle), ← expandStmt_loadStr]
  rfl

theorem schedule_loadRec (c : Config) (hlegal : Config.legal c = true) (h : Word) (a : Nat) (l : List Stmt) :
    referenceSchedule c (expandScript c (.loadRec h a :: l)) =
      expandStmt c (.loadRec h a) ++ referenceSchedule c (expandScript c l) := by
  rw [expandStmt_loadRec, ← referenceSchedule_writeEvents c _ (recordWrites_inRange c h a hlegal),
    ← expandStmt_loadRec]
  rfl

/-- The CMD write has the engine's turn right behind it. -/
theorem schedule_encode (c : Config) (l : List Stmt) :
    referenceSchedule c (expandScript c (.encode :: .wait :: .rd .status :: l)) =
      commandEvents c 1 ++ referenceSchedule c (expandScript c l) := if_pos rfl

theorem schedule_decode (c : Config) (l : List Stmt) :
    referenceSchedule c (expandScript c (.decode :: .wait :: .rd .status :: l)) =
      commandEvents c 2 ++ referenceSchedule c (expandScript c l) := if_pos rfl

/-! ### The record of a Latin-1 string (41 R142, 43 R208, R215) -/

/-- A string of Latin-1 characters, not all NUL, of at most P/8 units. -/
structure Latin1String (c : Config) (us : List CodeUnit) : Prop where
  fits : us.length ≤ c.p / 8
  latin1 : allLatin1 us = true
  nonzero : ∃ u ∈ us, u ≠ 0

/-- The payload of a Latin-1 string: its characters as bytes, the first most significant (42 R178, R186). -/
def latin1Payload (us : List CodeUnit) : Nat := codeSum 8 (us.map BitVec.toNat)

theorem latin1Payload_eq_sum (us : List CodeUnit) :
    latin1Payload us = ∑ k ∈ Finset.range us.length, (us.getD k 0).toNat * 2 ^ ((us.length - 1 - k) * 8) := by
  rw [latin1Payload, codeSum, List.length_map]
  refine Finset.sum_congr rfl fun k _ => ?_
  rw [show (0 : Nat) = (0 : CodeUnit).toNat from rfl, List.getD_map]

section Record

variable {c : Config} {us : List CodeUnit} (h : Latin1String c us)
include h

theorem Latin1String.payload_ne_zero : latin1Payload us ≠ 0 := by
  obtain ⟨u, hu, hne⟩ := h.nonzero
  exact fun hzero => hne (BitVec.eq_of_toNat_eq (codeSum_eq_zero.1 hzero _ (List.mem_map_of_mem hu)))

variable (hlegal : Config.legal c = true)
include hlegal

theorem Latin1String.length_le : us.length ≤ 63 :=
  (passesGate_iff.1 (le_gate_of_le_maxBytes hlegal h.fits)).1

/-- ENCODE selects LATIN1 (41 R142). -/
theorem Latin1String.select :
    select c us.length us = .success .latin1 us.length (latin1Payload us) := by
  have hempty : us.length ≠ 0 := fun hnil => by simpa [List.length_eq_zero_iff.1 hnil] using h.nonzero
  rw [select_latin1 (le_gate_of_le_maxBytes hlegal h.fits) hempty h.fits h.latin1,
    packBytes_eq_codeSum (by simpa using h.fits), map_toNat_low h.latin1, latin1Payload]

theorem Latin1String.payload_lt : latin1Payload us < 2 ^ c.p :=
  select_success_lt _ _ _ _ _ _ (legal_width c hlegal).2.1 (h.select hlegal)

end Record

section Commands

variable {s : State} {us : List CodeUnit} (h : Latin1String s.cfg us) (hlegal : Config.legal s.cfg = true)
include h hlegal

theorem exec_encode_latin1 (hlen : stringLength s = us.length) (hunits : stringUnits s = us) :
    exec .encode s = .next (commitEncode (headerOf .latin1 us.length) (latin1Payload us) s) := by
  have hselect : select s.cfg (stringLength s) (stringUnits s) = .success .latin1 us.length (latin1Payload us) := by
    rw [hlen, hunits, h.select hlegal]
  exact congrArg (fun r => Host.Outcome.next (applySelection r s)) hselect

theorem exec_decode_latin1 (hhdr : s.hdr = headerOf .latin1 us.length) (hpayload : payloadValue s = latin1Payload us) :
    exec .decode s = .next (commitDecode us s) := by
  obtain ⟨-, hfit, hunpack⟩ := (selected_of_select hlegal (h.select hlegal)).decodes hlegal rfl
  have hlen : (BitVec.ofNat 6 us.length).toNat = us.length := by
    have hle := h.length_le hlegal
    rw [BitVec.toNat_ofNat, Nat.mod_eq_of_lt (by omega)]
  have hne : payloadValue s ≠ 0 := by rw [hpayload]; exact h.payload_ne_zero
  rw [exec_decode_of_header hhdr, rowAlphabet_of_fits hne (by rwa [hlen]), hpayload, hlen, hunpack]
  rfl

end Commands

/-! ### The operands in place (30 R91) -/

/-- The state after LOADSTR, `rest` still to come. -/
def stringLoaded (s : State) (us : List CodeUnit) (rest : List Event) : State :=
  { s with
    bus := rest
    inLen := BitVec.ofNat 16 us.length
    charIn := overwrite s.charIn (fun k => us.getD k 0) us.length }

/-- The state after LOADREC, `rest` still to come. -/
def recordLoaded (s : State) (h : Word) (a : Nat) (rest : List Event) : State :=
  { s with
    bus := rest
    hdr := h.setWidth 12
    payload := overwrite s.payload (fun k => BitVec.ofNat 32 (a >>> (32 * k)) &&& payloadMask s.cfg k)
      (payloadWordCount s.cfg) }

section Loaded

variable {s : State} {us : List CodeUnit} {rest : List Event}

theorem stringLength_loaded (hle : us.length ≤ 64) : stringLength (stringLoaded s us rest) = us.length := by
  rw [stringLength, stringLoaded, BitVec.toNat_ofNat, Nat.mod_eq_of_lt (by omega)]

/-- What ENCODE reads after LOADSTR (30 R87). -/
theorem stringUnits_loaded (hle : us.length ≤ 64) : stringUnits (stringLoaded s us rest) = us := by
  have hL : (stringLoaded s us rest).inLen.toNat = us.length := stringLength_loaded hle
  rw [stringUnits_eq_map_charAt _ (by omega), hL]
  refine List.ext_getElem (by simp) fun k _ hk => ?_
  have hchar : charAt (stringLoaded s us rest) k = us.getD k 0 :=
    (overwrite_getD _ _ _ _ _).trans (if_pos ⟨hk, by omega⟩)
  simpa [List.getD, hk] using hchar

/-- What DECODE reads after LOADREC (30 R87). -/
theorem payloadValue_loaded {h : Word} {a : Nat} (hlegal : Config.legal s.cfg = true) (ha : a < 2 ^ s.cfg.p) :
    payloadValue (recordLoaded s h a rest) = a := by
  refine payloadValue_of_words _ a ha fun k hk => ?_
  have hk16 : k < 16 := lt_of_lt_of_le hk (payloadWordCount_le s.cfg hlegal)
  rw [recordLoaded, overwrite_getD, if_pos ⟨hk, hk16⟩, payloadWord_and_mask s.cfg a k ha hk16]

end Loaded

/-! ### The two sequences (70 R289) -/

/-- HDR and PAYLOAD hold the record of a Latin-1 string. -/
structure HoldsRecord (us : List CodeUnit) (t : State) : Prop where
  hdr : t.hdr = headerOf .latin1 us.length
  payload : payloadValue t = latin1Payload us

/-- OUT_LEN and CHAR_OUT hold a string. -/
structure HoldsString (us : List CodeUnit) (t : State) : Prop where
  outLen : t.outLen.toNat = us.length
  charOut : ∀ k < 64, t.charOut.getD k 0 = us.getD k 0

section Sequences

variable {s : State} {us : List CodeUnit} {rest : List Event} (h : Latin1String s.cfg us)
  (hlegal : Config.legal s.cfg = true) (released : s.inReset = false) (idle : s.status.busy = false)
  (nofault : s.status.fault = false)
include h hlegal released idle nofault

/-- ENCODE, WAIT, RD STATUS behind a string in CHAR_IN. -/
theorem run_encode_sequence (n : Nat) (hlen : stringLength s = us.length) (hunits : stringUnits s = us)
    (hbus : s.bus = commandEvents s.cfg 1 ++ rest) :
    ∃ t, Sys2Proof.core.run (n + 4) s = Sys2Proof.core.run n t ∧ Succeeded s rest t ∧ HoldsRecord us t := by
  obtain ⟨_, hrun, hok⟩ := run_successful_command n hbus released idle nofault (by decide)
    (exec_encode_latin1 (s := startCommand 1 { s with bus := _ }) h hlegal hlen hunits) rfl
  have hpayload := payloadValue_commitEncode (s := s) hlegal (headerOf .latin1 us.length) (h.payload_lt hlegal)
  exact ⟨_, hrun, hok, rfl, hpayload⟩

/-- DECODE, WAIT, RD STATUS behind a record in HDR and PAYLOAD. -/
theorem run_decode_sequence (n : Nat) (hrecord : HoldsRecord us s) (hbus : s.bus = commandEvents s.cfg 2 ++ rest) :
    ∃ t, Sys2Proof.core.run (n + 4) s = Sys2Proof.core.run n t ∧ Succeeded s rest t ∧ t.hdr = s.hdr ∧
      HoldsString us t := by
  have hle := h.length_le hlegal
  obtain ⟨_, hrun, hok⟩ := run_successful_command n hbus released idle nofault (by decide)
    (exec_decode_latin1 (s := startCommand 2 { s with bus := _ }) h hlegal hrecord.hdr hrecord.payload) rfl
  refine ⟨_, hrun, hok, rfl, ?_, fun k hk => ?_⟩
  · rw [commitDecode_outLen, BitVec.toNat_ofNat, Nat.mod_eq_of_lt (by omega)]
  · rw [commitDecode_charOut, vectorOf_getD, if_pos hk]

/-- LOADSTR, ENCODE, WAIT, RD STATUS. -/
theorem run_load_encode (n : Nat)
    (hbus : s.bus = expandStmt s.cfg (.loadStr us) ++ (commandEvents s.cfg 1 ++ rest)) :
    ∃ t, Sys2Proof.core.run (us.length + 1 + (n + 4)) s = Sys2Proof.core.run n t ∧ Succeeded s rest t ∧
      HoldsRecord us t := by
  have hle := h.length_le hlegal
  have hload := run_loadStr (n + 4) s us _ (by omega) released idle hbus
  obtain ⟨t, hrun, hok, hrecord⟩ := run_encode_sequence (s := stringLoaded s us (commandEvents s.cfg 1 ++ rest)) h
    hlegal released idle nofault n (stringLength_loaded (by omega)) (stringUnits_loaded (by omega)) rfl
  exact ⟨t, hload.trans hrun, { hok with }, hrecord⟩

/-- LOADREC, DECODE, WAIT, RD STATUS. -/
theorem run_load_decode (n : Nat) {hdr : Word} (hhdr : hdr.setWidth 12 = headerOf .latin1 us.length)
    (hbus : s.bus = expandStmt s.cfg (.loadRec hdr (latin1Payload us)) ++ (commandEvents s.cfg 2 ++ rest)) :
    ∃ t, Sys2Proof.core.run (payloadWordCount s.cfg + 1 + (n + 4)) s = Sys2Proof.core.run n t ∧ Succeeded s rest t ∧
      HoldsString us t := by
  have hload := run_loadRec (n + 4) s hdr (latin1Payload us) _ hlegal released idle hbus
  obtain ⟨t, hrun, hok, -, hstring⟩ := run_decode_sequence
    (s := recordLoaded s hdr (latin1Payload us) (commandEvents s.cfg 2 ++ rest)) h hlegal released idle nofault n
    ⟨hhdr, payloadValue_loaded hlegal (h.payload_lt hlegal)⟩ rfl
  exact ⟨t, hload.trans hrun, { hok with }, hstring⟩

end Sequences

/-- Settles O58: LOADSTR and LOADREC place the operands, and each command then ends in SUCCESS. -/
theorem canonicalSequenceReturnsTheString : Obligations.CanonicalSequenceReturnsTheString := by
  intro s us hlegal released idle nofault _ hfit hunits hnonzero
  have h : Latin1String s.cfg us := ⟨hfit, List.all_eq_true.2 fun u hu => decide_eq_true (hunits u hu), hnonzero⟩
  have hle := h.length_le hlegal
  have hhdr : headerOf .latin1 us.length = BitVec.ofNat 12 (0x800 + 64 * 10 + us.length) := headerOf_eq _ _ hle
  simp only [← latin1Payload_eq_sum, ← hhdr]
  refine ⟨fun hbus => ?encode, fun hbus => ?decode, fun hbus => ?both⟩
  case encode =>
    obtain ⟨t, hrun, hok, hrecord⟩ := run_load_encode (rest := []) h hlegal released idle nofault 0
      (by rw [hbus, schedule_loadStr s.cfg (by omega), schedule_encode]; rfl)
    exact ⟨t, hrun, hok.bus, hok.word, hrecord.hdr, hrecord.payload, hok.observed⟩
  case decode =>
    obtain ⟨t, hrun, hok, hstring⟩ := run_load_decode (rest := []) h hlegal released idle nofault 0
      ((BitVec.setWidth_ofNat_of_le (by decide) _).trans hhdr.symm)
      (by rw [hbus, schedule_loadRec s.cfg hlegal, schedule_decode]; rfl)
    exact ⟨t, hrun, hok.bus, hok.word, hstring.outLen, hstring.charOut, hok.observed⟩
  case both =>
    obtain ⟨t, hrun, hok, hrecord⟩ := run_load_encode (rest := commandEvents s.cfg 2) h hlegal released idle nofault 4
      (by rw [hbus, schedule_loadStr s.cfg (by omega), schedule_encode, schedule_decode]; rfl)
    have hcfg := hok.cfg
    obtain ⟨t', hrun', hok', hhdr', hstring⟩ := run_decode_sequence (rest := []) (hcfg ▸ h) (hcfg ▸ hlegal) hok.released
      hok.idle hok.nofault 0 hrecord (by rw [hok.bus, hcfg]; rfl)
    exact ⟨t', hrun.trans hrun', hok'.bus, hok'.word, hhdr'.trans hrecord.hdr, hstring.outLen, hstring.charOut,
      by rw [hok'.observed, hok.observed]⟩

end Sys2Proof.Machine
end

section
/-! PROOFS. Reset: what a step does when it is asserted, while it is asserted and when it is released (70 R280, R281),
and the first command after it (70 R282, R283). -/

namespace Sys2Proof.Machine

/-! ### While reset is asserted (70 R280; log 7) -/

section Asserted

variable {s : State} (asserted : s.inReset = true)
include asserted

/-- An access that reaches an offset is lost. -/
theorem hostStep_asserted {a : Access} {off : Nat} (hoff : accessOffset s.cfg a = .next off) :
    hostStep a s = .next s := by
  simp [hostStep, hoff, asserted]

/-- Only the two reset events reach the block. -/
theorem eventStep_asserted {e : Event} {t : State} (hassert : e ≠ .resetAssert) (hrelease : e ≠ .resetRelease)
    (h : eventStep e s = .next t) : t = s := by
  obtain ⟨he, _⟩ | ⟨he, _⟩ | ⟨_, ht⟩ | ⟨released, _⟩ | ⟨released, _⟩ | ⟨released, _⟩ | ⟨released, _⟩ :=
    eventStep_cases e s t h
  · exact absurd he hassert
  · exact absurd he hrelease
  · exact ht
  all_goals exact absurd (asserted.symm.trans released) Bool.noConfusion

/-- Any other event leaves the queue and changes nothing; with nothing pending nothing happens. -/
theorem step_asserted {t : State} (h : step s = .next t) (hassert : s.bus.head? ≠ some .resetAssert)
    (hrelease : s.bus.head? ≠ some .resetRelease) : t = { s with bus := s.bus.tail } := by
  obtain ⟨hbus, _, rfl⟩ | ⟨_, released, _⟩ | ⟨e, rest, hbus, hevent⟩ := step_cases s t h
  · rw [show t.bus.tail = t.bus by rw [hbus]; rfl]
  · exact absurd (asserted.symm.trans released) Bool.noConfusion
  · rw [hbus] at hassert hrelease ⊢
    exact eventStep_asserted (s := { s with bus := rest }) asserted (fun he => hassert (congrArg some he))
      (fun he => hrelease (congrArg some he)) hevent

end Asserted

/-- Settles O15: the step of each event with reset asserted, and of the two events that move the signal. -/
theorem assertedResetRestoresEverything : Obligations.AssertedResetRestoresEverything := by
  refine ⟨fun s rest => step_of_bus_cons s _ rest, fun s rest asserted hbus => ?lost,
    fun s rest off v asserted hoff haligned hbus => ?access, fun s t asserted => step_asserted asserted,
    fun s rest => step_of_bus_cons s _ rest⟩
  case lost =>
    obtain hbus | hbus | hbus := hbus
    all_goals
      rw [step_of_bus_cons s _ rest hbus]
      exact if_pos asserted
  case access =>
    obtain hbus | hbus := hbus
    all_goals
      rw [step_of_bus_cons s _ rest hbus]
      exact hostStep_asserted (s := { s with bus := rest }) asserted (portOffset_of_aligned s.cfg off hoff haligned)

/-! ### The first command after reset (70 R282, R283) -/

/-- Settles O16: after reset IN_LEN is 0, so ENCODE commits the empty record, and HDR is 0, so DECODE finds a foreign
tag. -/
theorem firstCommandAfterReset : Obligations.FirstCommandAfterReset := by
  refine ⟨rfl, rfl, ?encode, ?decode⟩
  case encode =>
    refine ⟨_, run_command_write 0 (v := 1) (rest := []) rfl rfl rfl rfl (by decide)
      (exec_encode_of_success (s := startCommand 1 State.reset) select_empty (Nat.zero_le _)), rfl, rfl, fun k hk => ?_⟩
    exact (payloadWords_getD 0 k hk).trans (by rw [Nat.zero_shiftRight])
  case decode =>
    have hforeign : hdrTag State.reset.hdr ≠ 0b10#2 := by decide
    exact ⟨_, run_command_write 0 (v := 2) (rest := []) rfl rfl rfl rfl (by decide)
      (exec_decode_of_foreign (s := startCommand 2 State.reset) hforeign), rfl⟩

end Sys2Proof.Machine
end
